-- ==== Sys2Proof/Word.lean ====
section
/-! DEFINITION. The word types of FCTD: the byte (R8), the 16-bit length registers (R24, R25, R26) and the 32-bit telemetry
result registers (R35). -/

namespace Sys2Proof

/-- A byte: 8 bits, bit 0 the least significant (R8). -/
abbrev Byte := BitVec 8

/-- A 16-bit unsigned length register: OPTLEN, TXLEN, RXLEN (R24, R25, R26). -/
abbrev Len16 := BitVec 16

/-- A telemetry result register `T[i]`: 32 bits, signed two's complement (R35). -/
abbrev Word32 := BitVec 32

/-- A raw status code of the driver, "passed on uninterpreted" (R207): a number. Which numbers the driver's status type has is the
parameter `drvType` (R6, Config.lean). -/
abbrev DrvStatus := Int

end Sys2Proof
end

