-- ==== Sys2Proof/Config.lean ====
section
/-! DEFINITION. What an implementation fixes (the parameters of R6 and the spec's marked defaults for them; the constraints on them
are in Machine/Legality.lean) and the free values the environment supplies (R205: driver answers and interrupt times, under no
law).

The parameters are a field of State (log 3), so that a statement about every state is a statement about every choice of them. -/

namespace Sys2Proof

/-- One value for each of the eleven SystemInfo fields, in the source's order (R35, R82). -/
structure SysInfo (α : Type) where
  batteryChargingVoltage : α
  batteryChargingCurrent : α
  batteryVoltage : α
  solarCellVoltage0 : α
  solarCellVoltage1 : α
  solarCellVoltage2 : α
  batteryTemperature : α
  boardTemperature : α
  mcuTemperature : α
  resetCounter : α
  powerConfiguration : α
  deriving DecidableEq, Repr

/-- The eleven values as a list, field 0 first (R82). -/
def SysInfo.toList {α : Type} (s : SysInfo α) : List α :=
  [s.batteryChargingVoltage, s.batteryChargingCurrent, s.batteryVoltage, s.solarCellVoltage0, s.solarCellVoltage1,
   s.solarCellVoltage2, s.batteryTemperature, s.boardTemperature, s.mcuTemperature, s.resetCounter, s.powerConfiguration]

/-- Field `i` of a record, by its index in R35 and R82. -/
def SysInfo.get {α : Type} (s : SysInfo α) : Fin 11 → α
  | 0 => s.batteryChargingVoltage
  | 1 => s.batteryChargingCurrent
  | 2 => s.batteryVoltage
  | 3 => s.solarCellVoltage0
  | 4 => s.solarCellVoltage1
  | 5 => s.solarCellVoltage2
  | 6 => s.batteryTemperature
  | 7 => s.boardTemperature
  | 8 => s.mcuTemperature
  | 9 => s.resetCounter
  | 10 => s.powerConfiguration

/-- The record whose field `i` is `f i`. -/
def SysInfo.build {α : Type} (f : Fin 11 → α) : SysInfo α where
  batteryChargingVoltage := f 0
  batteryChargingCurrent := f 1
  batteryVoltage := f 2
  solarCellVoltage0 := f 3
  solarCellVoltage1 := f 4
  solarCellVoltage2 := f 5
  batteryTemperature := f 6
  boardTemperature := f 7
  mcuTemperature := f 8
  resetCounter := f 9
  powerConfiguration := f 10

namespace Config

/-- The layout of one SystemInfo field (R82): its width `W_i` in bytes, whether it is signed, its scale `NUM_i / DEN_i`. -/
structure Field where
  width : Nat
  signed : Bool
  num : Nat
  den : Nat
  deriving DecidableEq, Repr

/-- `SYSINFO_LAYOUT` (R6, R82). -/
abbrev Layout := SysInfo Field

/-- The driver's status type: "any finite type" (R6, R207), as the finite set of the codes it has. -/
inductive StatusType where
  /-- A signed two's-complement integer of that many bits. -/
  | signed (bits : Nat)
  /-- An unsigned integer of that many bits. -/
  | unsigned (bits : Nat)
  /-- A closed list of codes. -/
  | codes (list : List DrvStatus)
  deriving DecidableEq, Repr

/-- The parameters of R6 the document leaves open. -/
structure Params where
  /-- `CALLSIGN`; its length is `CALLSIGN_LEN`, written `L`. -/
  callsign : List Byte
  /-- `L_MAX`, the capacity of the callsign register. -/
  lMax : Nat
  /-- `RX_CAP`, the capacity of RXBUF in bytes. -/
  rxCap : Nat
  fidCmdPing : Byte
  fidCmdRetransmit : Byte
  fidCmdSysinfo : Byte
  fidCmdLastpkt : Byte
  fidRespPong : Byte
  fidRespRepeated : Byte
  fidRespSysinfo : Byte
  fidRespLastpkt : Byte
  /-- `SYSINFO_LAYOUT`. -/
  layout : Layout
  /-- The driver's status type (R207), whose width is that of DRVCODE (R30). -/
  drvType : StatusType
  /-- `DRV_OK`, the driver's "no error" status value (R207). -/
  drvOk : DrvStatus
  deriving DecidableEq, Repr

/-- `OPT_MAX`, the largest optional-data length a frame can carry (R6, R7). -/
abbrev optMax : Nat := 255

/-- `LINE_MAX`, the cap of the line collector (R6). -/
abbrev lineMax : Nat := 32

/-- The default layout of R83, from the spec's general knowledge G3. PRESUMED, unsafe (log 3). -/
def defaultLayout : Layout where
  batteryChargingVoltage := { width := 1, signed := false, num := 20, den := 1000 }
  batteryChargingCurrent := { width := 2, signed := true, num := 10, den := 1000000 }
  batteryVoltage := { width := 1, signed := false, num := 20, den := 1000 }
  solarCellVoltage0 := { width := 1, signed := false, num := 20, den := 1000 }
  solarCellVoltage1 := { width := 1, signed := false, num := 20, den := 1000 }
  solarCellVoltage2 := { width := 1, signed := false, num := 20, den := 1000 }
  batteryTemperature := { width := 2, signed := true, num := 10, den := 1000 }
  boardTemperature := { width := 2, signed := true, num := 10, den := 1000 }
  mcuTemperature := { width := 1, signed := true, num := 1, den := 1 }
  resetCounter := { width := 2, signed := false, num := 1, den := 1 }
  powerConfiguration := { width := 1, signed := false, num := 1, den := 1 }

/-- The defaults of R6: the callsign FOSSASAT-1, the function ids of G1, the layout of G3, the driver status of G4.
PRESUMED, unsafe (log 3): they are the spec's marked defaults, not the source's. -/
def default : Params where
  callsign := [0x46#8, 0x4F#8, 0x53#8, 0x53#8, 0x41#8, 0x53#8, 0x41#8, 0x54#8, 0x2D#8, 0x31#8]
  lMax := 32
  rxCap := 267
  fidCmdPing := 0x00#8
  fidCmdRetransmit := 0x01#8
  fidCmdSysinfo := 0x03#8
  fidCmdLastpkt := 0x04#8
  fidRespPong := 0x10#8
  fidRespRepeated := 0x11#8
  fidRespSysinfo := 0x13#8
  fidRespLastpkt := 0x14#8
  layout := defaultLayout
  drvType := .signed 16
  drvOk := 0

/-! ## Free values

The environment's draws (R205, R151): nothing constrains them, so they have no body. Draw number `k` of a run is the free
value at `k` wherever State lists no answer for it (log 4). -/

/-- The status a driver call returns, before it is brought into the driver's status type. -/
opaque freeStatus : Nat → DrvStatus

/-- The number `getPacketLength` returns, before it is brought into `0 .. RX_CAP`. -/
opaque freeLength : Nat → Nat

/-- Byte `k` of the answer of a `readData` call, and of the second argument the byte's index. -/
opaque freeByte : Nat → Nat → Byte

/-- RXLEN after a packet of more bytes than its 16 bits can count, which an RX_CAP of 65536 or more allows (R6, R26): the spec
states no value (log 10). -/
opaque freeRxLen : Nat → Len16

/-- How many IRQ events fall into one gap between two micro-steps of POLL. -/
opaque freeEdges : Nat → Nat

end Config

end Sys2Proof
end

