-- ==== Sys2Proof/Syntax.lean ====
section
/-! DEFINITION. The instructions of FCTD, one constructor per row of the opcode table: the eleven port operations and the five
reserved port codes (R90, R91), the event IRQ (R151), and the frame rows, told apart by the function-id byte (R77, R80). -/

namespace Sys2Proof

/-- One constructor per row of the opcode table. The operands of the port operations are in registers, but for LINEIN, the byte
sequence the request itself carries (R38, R90). -/
inductive Instr where
  /-- `0x1` ENCODE, R101. -/
  | encode
  /-- `0x2` DECODE, R105. -/
  | decode
  /-- `0x3` DSYSINFO, R121. -/
  | dsysinfo
  /-- `0x4` DLASTPKT, R128. -/
  | dlastpkt
  /-- `0x5` DREPEAT, R132. -/
  | drepeat
  /-- `0x6` POLL, R152. -/
  | poll
  /-- `0x7` COLLECT, R175; `line` is LINEIN. -/
  | collect (line : List Byte)
  /-- `0x8` SEND_PING, R171. -/
  | sendPing
  /-- `0x9` SEND_REQSYS, R172. -/
  | sendReqsys
  /-- `0xA` SEND_REQPKT, R173. -/
  | sendReqpkt
  /-- `0xB` SEND_RETX, R174; `line` is LINEIN. -/
  | sendRetx (line : List Byte)
  /-- `0x0`, reserved, R91. -/
  | reserved0
  /-- `0xC`, reserved, R91. -/
  | reservedC
  /-- `0xD`, reserved, R91. -/
  | reservedD
  /-- `0xE`, reserved, R91. -/
  | reservedE
  /-- `0xF`, reserved, R91. -/
  | reservedF
  /-- The event IRQ: a data-ready edge on the interrupt input, not a port request, R151. -/
  | irq
  /-- Frame row ping, ground to satellite, built by R171. -/
  | frameCmdPing
  /-- Frame row request-retransmit, ground to satellite, built by R174. -/
  | frameCmdRetransmit
  /-- Frame row request-system-info, ground to satellite, built by R172. -/
  | frameCmdSysinfo
  /-- Frame row request-last-packet-info, ground to satellite, built by R173. -/
  | frameCmdLastpkt
  /-- Frame row pong, satellite to ground, dispatched by R156. -/
  | frameRespPong
  /-- Frame row repeated-message, satellite to ground, dispatched by R159. -/
  | frameRespRepeated
  /-- Frame row system-info, satellite to ground, dispatched by R157. -/
  | frameRespSysinfo
  /-- Frame row last-packet-info, satellite to ground, dispatched by R158. -/
  | frameRespLastpkt
  /-- Frame row of every other inbound function id `fid`, dispatched by R161. -/
  | frameUnrecognized (fid : Byte)
  deriving DecidableEq, Repr

/-- What selects an instruction, as the hardware meets it. -/
inductive Input where
  /-- A request on the command port: the 4-bit code OP (R90) and the operand LINEIN (R38), which only COLLECT and SEND_RETX read. -/
  | port (op : BitVec 4) (line : List Byte)
  /-- A data-ready edge on the interrupt input (R195): it has no code. -/
  | edge
  /-- The function-id byte at offset `L` of a received frame (R77, satellite to ground). -/
  | inbound (fid : Byte)
  /-- The function-id byte at offset `L` of a frame the block builds (R77, ground to satellite). -/
  | outbound (fid : Byte)
  deriving DecidableEq, Repr

/-- The four kinds of input, without their bits. -/
inductive InputKind where
  | port
  | edge
  | inbound
  | outbound
  deriving DecidableEq, Repr

/-- The kind of an input. -/
def Input.kind : Input → InputKind
  | .port _ _ => .port
  | .edge => .edge
  | .inbound _ => .inbound
  | .outbound _ => .outbound

/-- The kind of input each instruction is selected by: the `kind` column of R90 and the direction column of R77. -/
def Instr.kind : Instr → InputKind
  | .encode => .port
  | .decode => .port
  | .dsysinfo => .port
  | .dlastpkt => .port
  | .drepeat => .port
  | .poll => .port
  | .collect _ => .port
  | .sendPing => .port
  | .sendReqsys => .port
  | .sendReqpkt => .port
  | .sendRetx _ => .port
  | .reserved0 => .port
  | .reservedC => .port
  | .reservedD => .port
  | .reservedE => .port
  | .reservedF => .port
  | .irq => .edge
  | .frameCmdPing => .outbound
  | .frameCmdRetransmit => .outbound
  | .frameCmdSysinfo => .outbound
  | .frameCmdLastpkt => .outbound
  | .frameRespPong => .inbound
  | .frameRespRepeated => .inbound
  | .frameRespSysinfo => .inbound
  | .frameRespLastpkt => .inbound
  | .frameUnrecognized _ => .inbound

end Sys2Proof
end

