-- ==== Sys2Proof/WellFormed.lean ====
section
/-! DEFINITION. Which instructions are well formed. Every port operation is (LINEIN is "a finite byte sequence of any length",
R175); the unrecognized frame row carries a function id that is none of the four response ids (R79, R80). -/

namespace Sys2Proof

/-- `fid` is none of the four response ids: the class UNRECOGNIZED of R79. -/
def isUnrecognized (p : Config.Params) (fid : Byte) : Bool :=
  decide (fid ≠ p.fidRespPong) && decide (fid ≠ p.fidRespSysinfo) && decide (fid ≠ p.fidRespLastpkt)
    && decide (fid ≠ p.fidRespRepeated)

/-- An instruction is well formed under the parameters `p`. -/
def WellFormed (p : Config.Params) : Instr → Bool
  | .encode => true
  | .decode => true
  | .dsysinfo => true
  | .dlastpkt => true
  | .drepeat => true
  | .poll => true
  | .collect _ => true
  | .sendPing => true
  | .sendReqsys => true
  | .sendReqpkt => true
  | .sendRetx _ => true
  | .reserved0 => true
  | .reservedC => true
  | .reservedD => true
  | .reservedE => true
  | .reservedF => true
  | .irq => true
  | .frameCmdPing => true
  | .frameCmdRetransmit => true
  | .frameCmdSysinfo => true
  | .frameCmdLastpkt => true
  | .frameRespPong => true
  | .frameRespRepeated => true
  | .frameRespSysinfo => true
  | .frameRespLastpkt => true
  | .frameUnrecognized fid => isUnrecognized p fid

end Sys2Proof
end

