-- ==== Sys2Proof/Decode.lean ====
section
/-! DEFINITION. The decoder: from the 4-bit operation-select code (R90, R91), the interrupt edge (R151) or a frame's function-id
byte (R77, R79, R80) to the instruction; and the encoder, from the same tables. -/

namespace Sys2Proof

/-- Why an input selects no instruction. -/
inductive DecodeRejection where
  /-- The function id of a frame the block builds is none of the four command ids of R77: no row of the table describes it. -/
  | notACommandId (fid : Byte)
  deriving DecidableEq, Repr

/-- The command port (R90, R91): total on the sixteen codes. The last arm is code `0xF`, the only one left of four bits. -/
def decodePort (op : BitVec 4) (line : List Byte) : Instr :=
  match op.toNat with
  | 0x0 => .reserved0
  | 0x1 => .encode
  | 0x2 => .decode
  | 0x3 => .dsysinfo
  | 0x4 => .dlastpkt
  | 0x5 => .drepeat
  | 0x6 => .poll
  | 0x7 => .collect line
  | 0x8 => .sendPing
  | 0x9 => .sendReqsys
  | 0xA => .sendReqpkt
  | 0xB => .sendRetx line
  | 0xC => .reservedC
  | 0xD => .reservedD
  | 0xE => .reservedE
  | _ => .reservedF

/-- The classes of `FCLASS` (R79). -/
inductive FClass where
  | pong
  | sysinfo
  | lastpkt
  | repeated
  | unrecognized
  deriving DecidableEq, Repr

/-- The class codes 0 to 4 of R79, in three bits (R27). -/
def fclassCode : FClass → BitVec 3
  | .pong => 0#3
  | .sysinfo => 1#3
  | .lastpkt => 2#3
  | .repeated => 3#3
  | .unrecognized => 4#3

/-- `FCLASS(fid)` (R79): total on bytes. -/
def classify (p : Config.Params) (fid : Byte) : FClass :=
  if fid = p.fidRespPong then .pong
  else if fid = p.fidRespSysinfo then .sysinfo
  else if fid = p.fidRespLastpkt then .lastpkt
  else if fid = p.fidRespRepeated then .repeated
  else .unrecognized

/-- The frame row of an inbound function id: the four responses, and every other byte unrecognized, the four command ids among
them (R80). -/
def decodeInbound (p : Config.Params) (fid : Byte) : Instr :=
  match classify p fid with
  | .pong => .frameRespPong
  | .sysinfo => .frameRespSysinfo
  | .lastpkt => .frameRespLastpkt
  | .repeated => .frameRespRepeated
  | .unrecognized => .frameUnrecognized fid

/-- The frame row of an outbound function id: the four commands of R77; any other byte is rejected by name. -/
def decodeOutbound (p : Config.Params) (fid : Byte) : Except DecodeRejection Instr :=
  if fid = p.fidCmdPing then .ok .frameCmdPing
  else if fid = p.fidCmdRetransmit then .ok .frameCmdRetransmit
  else if fid = p.fidCmdSysinfo then .ok .frameCmdSysinfo
  else if fid = p.fidCmdLastpkt then .ok .frameCmdLastpkt
  else .error (.notACommandId fid)

/-- The decoder, total on every input. -/
def decode (p : Config.Params) : Input → Except DecodeRejection Instr
  | .port op line => .ok (decodePort op line)
  | .edge => .ok .irq
  | .inbound fid => .ok (decodeInbound p fid)
  | .outbound fid => decodeOutbound p fid

/-- The encoder: the input that selects an instruction (R77, R90, R91, R151). -/
def encode (p : Config.Params) : Instr → Input
  | .encode => .port 0x1#4 []
  | .decode => .port 0x2#4 []
  | .dsysinfo => .port 0x3#4 []
  | .dlastpkt => .port 0x4#4 []
  | .drepeat => .port 0x5#4 []
  | .poll => .port 0x6#4 []
  | .collect line => .port 0x7#4 line
  | .sendPing => .port 0x8#4 []
  | .sendReqsys => .port 0x9#4 []
  | .sendReqpkt => .port 0xA#4 []
  | .sendRetx line => .port 0xB#4 line
  | .reserved0 => .port 0x0#4 []
  | .reservedC => .port 0xC#4 []
  | .reservedD => .port 0xD#4 []
  | .reservedE => .port 0xE#4 []
  | .reservedF => .port 0xF#4 []
  | .irq => .edge
  | .frameCmdPing => .outbound p.fidCmdPing
  | .frameCmdRetransmit => .outbound p.fidCmdRetransmit
  | .frameCmdSysinfo => .outbound p.fidCmdSysinfo
  | .frameCmdLastpkt => .outbound p.fidCmdLastpkt
  | .frameRespPong => .inbound p.fidRespPong
  | .frameRespRepeated => .inbound p.fidRespRepeated
  | .frameRespSysinfo => .inbound p.fidRespSysinfo
  | .frameRespLastpkt => .inbound p.fidRespLastpkt
  | .frameUnrecognized fid => .inbound fid

/-- The input a word of the opcode table stands for. Both tables lie in one byte: a word below 16 is read as a command-port code,
any other byte as an inbound function id. DESIGN CHOICE, safe (log 11): the table's own words `0x00`, `0x01`, `0x03`, `0x04`
stand for a port code and for an outbound function id alike, and the machine tells them apart by where they arrive. -/
def tableInput (nbits w : Nat) : Option Input :=
  if nbits < 4 ∨ 8 < nbits ∨ 2 ^ nbits ≤ w then none
  else if w < 16 then some (.port (BitVec.ofNat 4 w) [])
  else some (.inbound (BitVec.ofNat 8 w))

/-- The instruction the decoder reads from a word of the opcode table, under the default parameters; the operand LINEIN, which
the table gives no bits, is empty. -/
def decodeTableWord (nbits w : Nat) : Option Instr :=
  match tableInput nbits w with
  | none => none
  | some input =>
    match decode Config.default input with
    | .ok i => some i
    | .error _ => none

end Sys2Proof
end

