-- ==== Sys2Proof/Machine/State.lean ====
section
/-! DEFINITION. The state of FCTD as plain data: every register and buffer of R20 with its valid flag, the two output histories,
the parameters, the boot progress, and what the environment will do next; the faults and refusals; the state at reset (R42).

A register whose valid flag is 0 "holds no value: it is not zero and it is not its previous content" (R21). A register and its
valid flag are therefore one Option: `none` is "flag 0", `some v` is "flag 1, holding v" (log 1). The flags OPTV, TXV, RXV, FV,
TV, PV stand under their own names in Machine/Flags.lean. -/

namespace Sys2Proof.Machine

/-- The bytes of one buffer: address and byte pairs, addresses strictly rising, no byte that an unlisted offset reads as. An
unlisted offset reads as zero. DESIGN CHOICE, unsafe for offsets at or beyond the valid length, which no operation reads (U7,
log 2). -/
abbrev Memory := List Host.Cell

/-- A buffer and its length register (R10): the meaningful bytes are those at offsets below `len` (R24, R25, R26). -/
structure Buf where
  len : Len16
  mem : Memory
  deriving DecidableEq, Repr

/-- `SNRQ` and `RSSIH`, which share the valid flag PV (R36). -/
structure PacketInfo where
  snrq : Byte
  rssih : Byte
  deriving DecidableEq, Repr

/-- The three values of RXSTATE (R31, R150). -/
inductive RxState where
  | idle
  | framePending
  | processing
  deriving DecidableEq, Repr

/-- How far the boot sequence of R220 has come; after a failed radio initialisation "the block is never started" (R221). -/
inductive BootState where
  | notBooted
  | ready
  | failed
  deriving DecidableEq, Repr

/-- The execution contexts, which play the part of privilege modes (R200). -/
inductive Context where
  | mainLoop
  | interrupt
  deriving DecidableEq, Repr

/-- The registers and flags a host can name (R20, R21). -/
inductive RegName where
  | cs
  | csLen
  | fidin
  | opt
  | optLen
  | optv
  | txbuf
  | txLen
  | txv
  | rxbuf
  | rxLen
  | rxv
  | fid
  | fv
  | t (i : Fin 11)
  | tv
  | snrq
  | rssih
  | pv
  | rv
  | status
  | drvcode
  | rxstate
  | im
  deriving DecidableEq, Repr

/-- The kinds of an `Error` notification (R208). -/
inductive ErrorKind where
  | transportRx
  | frameTruncated
  | frameNotAddressed
  | payloadTooShort
  | payloadTooLong
  deriving DecidableEq, Repr

/-- One element of the notification stream NOTE: the closed set of seven kinds of R44 and R208. -/
inductive Note where
  | ack
  | telemetry (t : SysInfo Word32)
  | packetInfo (snrq rssih : Byte)
  | relayedText (bytes : List Byte)
  | unrecognized (fid : Byte)
  /-- `code` is DRVCODE for `transportRx` and the STATUS code, as a number, otherwise. -/
  | error (kind : ErrorKind) (code : Int)
  | txStatus (code : DrvStatus)
  deriving DecidableEq, Repr

/-- One driver call of DRVLOG, with its arguments and the result the environment drew (R43, R205). -/
inductive DrvCall where
  | registerInterruptCallback
  | startReceive (st : DrvStatus)
  | getPacketLength (n : Nat)
  | readData (n : Nat) (st : DrvStatus) (bytes : List Byte)
  | transmit (bytes : List Byte) (n : Nat) (st : DrvStatus)
  deriving DecidableEq, Repr

/-- One thing the host or the radio does at an operation boundary. -/
inductive Event where
  /-- The boot sequence of R220; `radioOk` is the outcome of the external step B2. -/
  | boot (radioOk : Bool)
  /-- The process that hosts the block starts again (R215), under the parameters `p` (R6: fixed from reset to reset). -/
  | restart (p : Config.Params)
  /-- A request on the command port from a context: OP and LINEIN (R90, R38, R200). -/
  | request (ctx : Context) (op : BitVec 4) (line : List Byte)
  /-- The radio's data-ready edge (R195). -/
  | edge
  /-- The host writes FIDIN (R209). -/
  | writeFidin (b : Byte)
  /-- The host writes OPT together with OPTLEN, which is the number of bytes (R209, R24). -/
  | writeOpt (bytes : List Byte)
  /-- The host writes RXBUF together with RXLEN, which is the number of bytes (R209, R26). -/
  | writeRxbuf (bytes : List Byte)
  /-- A host write in any other form (U20). -/
  | writeOther (r : RegName)
  /-- The host reads a register (R209). -/
  | read (r : RegName)
  /-- The host itself calls the driver (R63, R231, U23). -/
  | driverCall (ctx : Context)
  deriving DecidableEq, Repr

/-- The answers the environment has ready, oldest first, one list per kind of draw (R205, R151). Where a list is empty the draw is
a free value of Config; `drawn` counts the draws made and numbers the free values (log 4). The MODEL's own, no register. -/
structure Env where
  /-- Statuses of coming `transmit` calls. -/
  transmit : List DrvStatus
  /-- Statuses of coming `startReceive` calls. -/
  start : List DrvStatus
  /-- Answers of coming `getPacketLength` calls. -/
  packetLength : List Nat
  /-- Answers of coming `readData` calls: status and bytes. -/
  readData : List (DrvStatus × List Byte)
  /-- How many IRQ events fall into each coming gap between two micro-steps of POLL. -/
  edges : List Nat
  drawn : Nat
  deriving DecidableEq, Repr

/-- The state of the machine. -/
@[ext]
structure State where
  /-- The parameters of R6, fixed from reset to reset. -/
  params : Config.Params
  /-- The progress of the boot sequence (R220, R221). -/
  boot : BootState
  /-- CS and CSLEN (R22). -/
  cs : Option Buf
  /-- FIDIN (R23). -/
  fidin : Option Byte
  /-- OPT, OPTLEN, OPTV (R24). -/
  opt : Option Buf
  /-- TXBUF, TXLEN, TXV (R25). -/
  tx : Option Buf
  /-- RXBUF, RXLEN, RXV (R26). -/
  rx : Option Buf
  /-- FID, FV (R27). -/
  fid : Option Byte
  /-- T[0..10], TV (R35). -/
  telemetry : Option (SysInfo Word32)
  /-- SNRQ, RSSIH, PV (R36). -/
  packet : Option PacketInfo
  /-- RV (R37). -/
  rv : Bool
  /-- STATUS (R29). -/
  status : BitVec 4
  /-- DRVCODE (R30). -/
  drvcode : Option DrvStatus
  /-- RXSTATE (R31). -/
  rxstate : RxState
  /-- IM (R32). -/
  im : Bool
  /-- NOTE (R44). -/
  note : List Note
  /-- DRVLOG (R43). -/
  drvlog : List DrvCall
  /-- What the host and the radio do next, oldest first (log 6). The MODEL's own. -/
  inputs : List Event
  /-- The environment's answers (log 4). The MODEL's own. -/
  env : Env
  deriving DecidableEq, Repr

/-- Why the machine stops with a fault. Each is safe: the run has left the spec, and nothing is claimed of a state after it. -/
inductive Fault where
  /-- Raised by every operation whose rule names a register as operand that holds no value (R21, U9, D27), past ENCODE's size test,
  which looks at OPTLEN alone (R103, log 1). Safe. -/
  | invalidOperand (r : RegName)
  /-- Raised by every port operation but ENCODE when OPTLEN is above 255 (R24, U15). Safe. -/
  | optLenAbove255
  deriving DecidableEq, Repr

/-- Why the machine does not accept a run. Each is safe: the spec says that such a run is not a run of FCTD. -/
inductive Refusal where
  /-- An instruction without a meaning; no arm of exec raises it. Safe. -/
  | notModelled (mnemonic : String)
  /-- Raised by any request before the boot sequence has finished (R220, U11), and by any host write, host read or driver call of the
  host's own then (DESIGN CHOICE, log 7). Safe. -/
  | notBooted
  /-- Raised by any request after radio initialisation failed (R221, U11), and by any host write, host read or driver call of the
  host's own then (DESIGN CHOICE, log 7). Safe. -/
  | bootFailed
  /-- Raised by a second boot sequence: it is run once (R220). Safe. -/
  | alreadyBooted
  /-- Raised by boot step B1 for `L = 0`, `L > L_MAX` or a byte that is not printable (R22, R220, U10). Safe. -/
  | callsignIllegal
  /-- Raised by boot for an RX_CAP below `L + 1` (R6), or an `L` with which TXLEN cannot hold every frame (log 10). Safe. -/
  | capacitiesIllegal
  /-- Raised by boot for function ids that are not pairwise distinct (R78, U24). Safe. -/
  | functionIdsIllegal
  /-- Raised by boot for a SYSINFO_LAYOUT that is not legal (R82, U22). Safe. -/
  | layoutIllegal
  /-- Raised by POLL when `getPacketLength` answers more than RX_CAP (R154, R205, U6). Safe. -/
  | packetLengthAboveCapacity
  /-- Raised by a port request from interrupt context (R200, R225, U8). Safe. -/
  | interruptContext
  /-- Raised by a host write in a form R209 does not list (R209, U20). Safe. -/
  | readOnlyRegister (r : RegName)
  /-- Raised by a host write of more bytes than the buffer or its length register holds (R24, R26, R50). Safe. -/
  | writeTooLong (r : RegName)
  /-- Raised by a driver call from interrupt context (R63, R231, U23). Safe. -/
  | driverFromHandler
  deriving DecidableEq, Repr

/-- The state right after reset under the parameters `p` (R42, R215, R216): every register invalid but STATUS, RV, RXSTATE, IM. -/
def State.resetWith (p : Config.Params) (inputs : List Event) (env : Env) : State where
  params := p
  boot := .notBooted
  cs := none
  fidin := none
  opt := none
  tx := none
  rx := none
  fid := none
  telemetry := none
  packet := none
  rv := false
  status := 0x0#4
  drvcode := none
  rxstate := .idle
  im := false
  note := []
  drvlog := []
  inputs := inputs
  env := env

/-- An environment with no answer listed and no draw made: every coming draw is a free value. -/
def Env.silent : Env where
  transmit := []
  start := []
  packetLength := []
  readData := []
  edges := []
  drawn := 0

/-- The machine right after reset (R42), under the default parameters (log 3), with nothing asked of it yet (log 6). -/
def State.reset : State := State.resetWith Config.default [] Env.silent

end Sys2Proof.Machine
end

