-- ==== Sys2Proof/Machine/Ops.lean ====
section
/-! DEFINITION. The named operations over buffers, histories, draws and errors, which every meaning is built of. -/

namespace Sys2Proof.Machine

/-- What a step or a meaning answers. -/
abbrev Result := Host.Outcome State Fault Refusal

/-- Go on with `f` where `o` answers a state; a fault or a refusal ends the operation. -/
def andThen (o : Result) (f : State → Result) : Result :=
  match o with
  | .next s => f s
  | .fault r => .fault r
  | .refused r => .refused r

/-- The next state, if there is one: for tests. -/
def nextState? (o : Result) : Option State :=
  match o with
  | .next s => some s
  | .fault _ => none
  | .refused _ => none

/-! ## Buffers -/

/-- The byte at an offset; an offset that is not listed reads as zero (log 2). -/
def Memory.read : Memory → Nat → Byte
  | [], _ => 0#8
  | (a, b) :: m, k => if a = k then b else Memory.read m k

/-- Write one byte, keeping the canonical form: a zero byte is not listed. -/
def Memory.write : Memory → Nat → Byte → Memory
  | [], k, v => if v = 0#8 then [] else [(k, v)]
  | (a, b) :: m, k, v =>
    if k < a then (if v = 0#8 then (a, b) :: m else (k, v) :: (a, b) :: m)
    else if k = a then (if v = 0#8 then m else (k, v) :: m)
    else (a, b) :: Memory.write m k v

/-- Write a byte sequence to offsets `k, k + 1, ..` in increasing order (R12, R55). -/
def Memory.writeBytes : Memory → Nat → List Byte → Memory
  | m, _, [] => m
  | m, k, v :: vs => Memory.writeBytes (Memory.write m k v) (k + 1) vs

/-- The `n` bytes at offsets `k .. k + n - 1`. -/
def Memory.readBytes (m : Memory) : Nat → Nat → List Byte
  | _, 0 => []
  | k, n + 1 => Memory.read m k :: Memory.readBytes m (k + 1) n

/-- The canonical form, from a lower bound of the addresses on: strictly rising, no zero byte listed. -/
def Memory.wfFrom : Nat → Memory → Bool
  | _, [] => true
  | lo, (a, b) :: m => decide (lo ≤ a) && decide (b ≠ 0#8) && Memory.wfFrom (a + 1) m

/-- The canonical form holds. -/
def Memory.wf (m : Memory) : Bool := Memory.wfFrom 0 m

/-- Every listed offset is below `n`. -/
def Memory.below (n : Nat) (m : Memory) : Bool := m.all (fun c => decide (c.1 < n))

/-- A buffer that holds exactly a byte sequence. -/
def Buf.ofBytes (bs : List Byte) : Buf where
  len := BitVec.ofNat 16 bs.length
  mem := Memory.writeBytes [] 0 bs

/-- The valid bytes of a buffer, `B[0..len)` (R9, R10). -/
def Buf.bytes (b : Buf) : List Byte := Memory.readBytes b.mem 0 b.len.toNat

/-- A buffer is in canonical form and lists nothing at or beyond its valid length. -/
def Buf.wf (b : Buf) : Bool := Memory.wf b.mem && Memory.below b.len.toNat b.mem

/-- RXBUF and RXLEN loaded with a packet (R152 P4). Where the packet has more bytes than 16 bits can count, RXLEN is the free value
`k` (log 10). -/
def Buf.received (k : Nat) (bs : List Byte) : Buf :=
  if bs.length < 2 ^ 16 then Buf.ofBytes bs
  else { len := Config.freeRxLen k, mem := Memory.writeBytes [] 0 bs }

/-! ## Histories, errors -/

/-- `emit N(args)`: one notification more on NOTE (R13, R44). -/
def emit (n : Note) (s : State) : State := { s with note := s.note ++ [n] }

/-- One driver call more on DRVLOG (R43). -/
def logCall (c : DrvCall) (s : State) : State := { s with drvlog := s.drvlog ++ [c] }

/-- Ending an operation with a status code: with `0x0` when it completed, with an error's code when it is raised (R13, R186,
R197). This is the whole of taking an exception here: nothing is saved, no mode and no mask changes, control goes nowhere. -/
def finish (code : BitVec 4) (s : State) : Result := .next { s with status := code }

/-! ## The driver's status type (R207) -/

/-- The type has the code. -/
def typeHas : Config.StatusType → DrvStatus → Bool
  | .signed n, z => decide (-(2 : Int) ^ n ≤ 2 * z) && decide (2 * z < (2 : Int) ^ n)
  | .unsigned n, z => decide (0 ≤ z) && decide (z < (2 : Int) ^ n)
  | .codes l, z => l.contains z

/-- A code of the type for each number; `none` of an empty list of codes. -/
def typePick : Config.StatusType → Int → Option DrvStatus
  | .signed n, z => some (z.bmod (2 ^ n))
  | .unsigned n, z => some (z % (2 : Int) ^ n)
  | .codes l, z => l[(z % (l.length : Int)).toNat]?

/-- The code is a value of the driver's status type, of which DRV_OK is "one value" (R6; log 5). -/
def isStatus (p : Config.Params) (z : DrvStatus) : Bool := decide (z = p.drvOk) || typeHas p.drvType z

/-- A value of the status type for each number; a value of the type stands as it is (log 4). -/
def fitStatus (p : Config.Params) (z : DrvStatus) : DrvStatus :=
  if isStatus p z then z else (typePick p.drvType z).getD p.drvOk

/-! ## Draws (R205): the listed answer, or a free value where none is listed; a status is brought into the driver's status type
(log 4) -/

/-- One draw more made. -/
def Env.count (e : Env) : Env := { e with drawn := e.drawn + 1 }

/-- The status `transmit` returns: any status. -/
def drawTransmit (s : State) : DrvStatus × State :=
  (fitStatus s.params (s.env.transmit.headD (Config.freeStatus s.env.drawn)),
   { s with env := Env.count { s.env with transmit := s.env.transmit.tail } })

/-- The status `startReceive` returns: any status. -/
def drawStart (s : State) : DrvStatus × State :=
  (fitStatus s.params (s.env.start.headD (Config.freeStatus s.env.drawn)),
   { s with env := Env.count { s.env with start := s.env.start.tail } })

/-- The number `getPacketLength` returns. A free value is brought into `0 .. RX_CAP` (R205); a listed answer stands as it is, and
POLL refuses one above RX_CAP (U6). -/
def drawPacketLength (s : State) : Nat × State :=
  (s.env.packetLength.headD (Config.freeLength s.env.drawn % (s.params.rxCap + 1)),
   { s with env := Env.count { s.env with packetLength := s.env.packetLength.tail } })

/-- Exactly `n` bytes: the listed ones, and a free byte where none is listed (R205: "any `plen` bytes"). -/
def fitBytes (k : Nat) (given : List Byte) (n : Nat) : List Byte :=
  (List.range n).map (fun i => given.getD i (Config.freeByte k i))

/-- What `readData(n)` returns: any status and any `n` bytes. -/
def drawReadData (n : Nat) (s : State) : (DrvStatus × List Byte) × State :=
  (match s.env.readData with
   | [] => (fitStatus s.params (Config.freeStatus s.env.drawn), fitBytes s.env.drawn [] n)
   | (st, given) :: _ => (fitStatus s.params st, fitBytes s.env.drawn given n),
   { s with env := Env.count { s.env with readData := s.env.readData.tail } })

end Sys2Proof.Machine
end

