-- ==== Sys2Proof/Machine/Flags.lean ====
section
/-! DEFINITION. The status codes (R186), the flags under their own names (R21, R33), the encoding of RXSTATE (R31), and the effect
of the IRQ event on it (R151). FCTD has no arithmetic condition codes (R33). -/

namespace Sys2Proof.Machine

/-- OK (R186). -/
abbrev stOk : BitVec 4 := 0x0#4
/-- FrameError::Truncated (R186). -/
abbrev stTruncated : BitVec 4 := 0x1#4
/-- FrameError::NotAddressedToUs (R186). -/
abbrev stNotAddressed : BitVec 4 := 0x2#4
/-- DecodeError::PayloadTooShort (R186). -/
abbrev stTooShort : BitVec 4 := 0x3#4
/-- DecodeError::PayloadTooLong (R186). -/
abbrev stTooLong : BitVec 4 := 0x4#4
/-- EncodeError::OptionalDataTooLong (R186). -/
abbrev stOptTooLong : BitVec 4 := 0x5#4
/-- TransportError (R186). -/
abbrev stTransport : BitVec 4 := 0x6#4
/-- UnrecognizedFunctionId, "not an error" (R186, R190). -/
abbrev stUnrecognized : BitVec 4 := 0x7#4
/-- IllegalOperation (R186). -/
abbrev stIllegal : BitVec 4 := 0xF#4

/-- OPTV (R24). -/
def State.optv (s : State) : Bool := s.opt.isSome
/-- TXV (R25). -/
def State.txv (s : State) : Bool := s.tx.isSome
/-- RXV (R26). -/
def State.rxv (s : State) : Bool := s.rx.isSome
/-- FV (R27). -/
def State.fv (s : State) : Bool := s.fid.isSome
/-- TV (R35). -/
def State.tv (s : State) : Bool := s.telemetry.isSome
/-- PV (R36). -/
def State.pv (s : State) : Bool := s.packet.isSome
/-- The pending flag: not a bit of its own, the predicate `RXSTATE = FramePending` (R33). -/
def State.pending (s : State) : Bool := decide (s.rxstate = .framePending)

/-- The encoding of RXSTATE in two bits (R31); 3 is never held. -/
def rxCode : RxState → BitVec 2
  | .idle => 0#2
  | .framePending => 1#2
  | .processing => 2#2

/-- RXSTATE after one IRQ event (R151): masked, nothing; not Idle, nothing; else FramePending. -/
def irqNext (im : Bool) (rx : RxState) : RxState :=
  if im then rx
  else
    match rx with
    | .idle => .framePending
    | .framePending => .framePending
    | .processing => .processing

/-- RXSTATE after `n` IRQ events. -/
def irqTimes : Nat → Bool → RxState → RxState
  | 0, _, rx => rx
  | n + 1, im, rx => irqTimes n im (irqNext im rx)

/-- The IRQ events that fall between two micro-steps (R14, R59, R151): their number is a draw, and each changes RXSTATE only. -/
def interleave (s : State) : State :=
  { s with
    rxstate := irqTimes (s.env.edges.headD (Config.freeEdges s.env.drawn)) s.im s.rxstate
    env := Env.count { s.env with edges := s.env.edges.tail } }

/-- The error kind of a STATUS code in a POLL notification (R155, R157, R158, R208). -/
def errorKind (code : BitVec 4) : ErrorKind :=
  if code = stTruncated then .frameTruncated
  else if code = stNotAddressed then .frameNotAddressed
  else if code = stTooLong then .payloadTooLong
  else .payloadTooShort

/-- The notification `Error(kind of STATUS, STATUS)` (R152, R208). -/
def errorNote (code : BitVec 4) : Note := .error (errorKind code) code.toNat

end Sys2Proof.Machine
end

