-- ==== Sys2Proof/Machine/Operands.lean ====
section
/-! DEFINITION. Operand forms: little-endian assembly and sign extension (R11, R12), field offsets of the SystemInfo layout (R82),
field values (R84), and the checks on operand registers (R21, R24). -/

namespace Sys2Proof.Machine

/-- `MemRead(B + k, n)`: little-endian, the byte at the lowest offset least significant (R12, R52). -/
def memRead (m : Memory) : Nat → Nat → Nat
  | _, 0 => 0
  | k, n + 1 => (Memory.read m k).toNat + 256 * memRead m (k + 1) n

/-- `sext_N(v)`: the `N`-bit pattern `v` as a two's-complement integer (R11; the spec's G6: PRESUMED, unsafe, log 14). -/
def sext (n v : Nat) : Int :=
  if v < 2 ^ (n - 1) then (v : Int) else (v : Int) - (2 : Int) ^ n

/-- `OFF_i`: the sum of the widths of the fields before field `i` (R82). -/
def fieldOffset (l : Config.Layout) (i : Fin 11) : Nat :=
  ((l.toList.take i.val).map Config.Field.width).sum

/-- `SYSINFO_LEN`: the sum of the eleven widths (R6, R82). -/
def sysinfoLen (l : Config.Layout) : Nat :=
  (l.toList.map Config.Field.width).sum

/-- The raw value of field `i` of a payload (R84): little-endian, sign-extended if the field is signed. -/
def fieldRaw (l : Config.Layout) (i : Fin 11) (m : Memory) : Int :=
  let f := l.get i
  let u := memRead m (fieldOffset l i) f.width
  if f.signed then sext (8 * f.width) u else (u : Int)

/-- `T[i] = raw * NUM_i` (R84, R122), in the 32-bit signed register (R35). -/
def fieldValue (l : Config.Layout) (m : Memory) (i : Fin 11) : Word32 :=
  BitVec.ofInt 32 (fieldRaw l i m * ((l.get i).num : Int))

/-- OPTLEN is above 255: then "the buffer contents are meaningless and only ENCODE may be issued" (R24, U15). -/
def optTooLong (s : State) : Bool :=
  match s.opt with
  | none => false
  | some o => decide (Config.optMax < o.len.toNat)

/-- The check every port operation but ENCODE makes (R24, U15; DEDUCED, safe, log 12). -/
def guardOptLen (s : State) (f : State → Result) : Result :=
  if optTooLong s then .fault .optLenAbove255 else f s

/-- The optional data as operand: valid and at most 255 bytes (R21, R24). -/
def withOpt (s : State) (f : Buf → Result) : Result :=
  match s.opt with
  | none => .fault (.invalidOperand .opt)
  | some o => if Config.optMax < o.len.toNat then .fault .optLenAbove255 else f o

/-- The byte at an offset of a buffer register that holds a value: what a frame statement reads (R50). -/
def byteAt (o : Option Buf) (k : Nat) : Option Byte := o.map fun b => Memory.read b.mem k

end Sys2Proof.Machine
end

