-- ==== Sys2Proof/Machine/Codec.lean ====
section
/-! DEFINITION. The Frame Codec (40_frame_codec.md): the frame formats F0 and F1 (R71, R72) as pure functions on byte sequences, and
the operations ENCODE (R101) and DECODE (R105). -/

namespace Sys2Proof.Machine

/-- `flen(L, N)`, the frame length function (R74). -/
def frameLen (l n : Nat) : Nat := if n = 0 then l + 1 else l + 2 + n

/-- The frame of a callsign, a function id and optional data: format F0 without data, format F1 with data (R71, R72). There is no
prefix, terminator or padding (R70, C1). -/
def encodeFrame (cs : List Byte) (fid : Byte) (d : List Byte) : List Byte :=
  cs ++ fid :: (if d = [] then [] else BitVec.ofNat 8 d.length :: d)

/-- The two frame errors (R187). -/
inductive FrameError where
  | truncated
  | notAddressed
  deriving DecidableEq, Repr

/-- The STATUS code of a frame error (R186). -/
def frameErrorCode : FrameError → BitVec 4
  | .truncated => stTruncated
  | .notAddressed => stNotAddressed

/-- DECODE's three checks in the order of R105 and R106, and the function id and optional data of an accepted buffer. Every byte
is read after the check that puts it in bounds (R108); surplus bytes and a zero length byte are accepted (R76). -/
def decodeFrame (cs rx : List Byte) : Except FrameError (Byte × List Byte) :=
  let l := cs.length
  if rx.length < l + 1 then .error .truncated
  else if rx.take l ≠ cs then .error .notAddressed
  else if rx.length = l + 1 then .ok (rx.getD l 0#8, [])
  else
    let n := (rx.getD (l + 1) 0#8).toNat
    if rx.length < l + 2 + n then .error .truncated
    else .ok (rx.getD l 0#8, (rx.drop (l + 2)).take n)

/-- ENCODE's pseudocode (R101, R103). The size test "is on `OPTLEN` alone and comes first": it is made, and has its effect, also where
CS or FIDIN holds no value (DEDUCED, log 1); past it an operand that holds no value is a fault (R21, U9, D27). -/
def encodeOp (s : State) : Result :=
  if optTooLong s then finish stOptTooLong { s with tx := none }
  else
    match s.cs, s.fidin, s.opt with
    | none, _, _ => .fault (.invalidOperand .cs)
    | some _, none, _ => .fault (.invalidOperand .fidin)
    | some _, some _, none => .fault (.invalidOperand .opt)
    | some cs, some fid, some o => finish stOk { s with tx := some (Buf.ofBytes (encodeFrame cs.bytes fid o.bytes)) }

/-- DECODE's pseudocode (R105, R107). -/
def decodeOp (s : State) : Result :=
  match s.cs, s.rx with
  | none, _ => .fault (.invalidOperand .cs)
  | some _, none => .fault (.invalidOperand .rxbuf)
  | some cs, some rx =>
    match decodeFrame cs.bytes rx.bytes with
    | .ok (fid, d) => finish stOk { s with fid := some fid, opt := some (Buf.ofBytes d), rv := false }
    | .error e => finish (frameErrorCode e) { s with fid := none, opt := none, rv := false }

/-- `0x1` ENCODE (R101). The one port operation that may be issued with OPTLEN above 255 (R24). -/
def execEncode (s : State) : Result := encodeOp s

/-- `0x2` DECODE (R105). -/
def execDecode (s : State) : Result := guardOptLen s decodeOp

end Sys2Proof.Machine
end

