-- ==== Sys2Proof/Machine/Reserved.lean ====
section
/-! DEFINITION. The reserved operation codes (R91): `STATUS <- 0xF`, nothing else. -/

namespace Sys2Proof.Machine

/-- The effect of a code that selects no operation (R91). -/
def illegalOperation (s : State) : Result := finish stIllegal s

/-- Code `0x0` (R91). -/
def execReserved0 (s : State) : Result := illegalOperation s
/-- Code `0xC` (R91). -/
def execReservedC (s : State) : Result := illegalOperation s
/-- Code `0xD` (R91). -/
def execReservedD (s : State) : Result := illegalOperation s
/-- Code `0xE` (R91). -/
def execReservedE (s : State) : Result := illegalOperation s
/-- Code `0xF` (R91). -/
def execReservedF (s : State) : Result := illegalOperation s

end Sys2Proof.Machine
end

