-- ==== Sys2Proof/Machine/Senders.lean ====
section
/-! DEFINITION. The command senders and the line collector (43_command_senders.md): COLLECT (R175), the building of a command frame,
the transmit step (R176) and the four senders (R171 to R174). -/

namespace Sys2Proof.Machine

/-- CR or LF (R175; the byte values are the spec's G5: PRESUMED, unsafe, log 14). -/
def isTerminator (b : Byte) : Bool := b == 0x0D#8 || b == 0x0A#8

/-- The collected line (R175): the bytes before the first terminator, or all of them if there is none, at most 32. -/
def collectLine (line : List Byte) : List Byte :=
  let k := line.findIdx isTerminator
  let m := min k Config.lineMax
  line.take m

/-- COLLECT's pseudocode (R175). -/
def collectOp (line : List Byte) (s : State) : Result :=
  finish stOk { s with opt := some (Buf.ofBytes (collectLine line)), rv := false }

/-- A command frame without optional data: FIDIN and OPT set, RV cleared, ENCODE run (R171). -/
def buildCommand (fid : Byte) (s : State) : Result :=
  encodeOp { s with fidin := some fid, opt := some (Buf.ofBytes []), rv := false }

/-- The retransmit frame with the optional data COLLECT left in OPT (R174). -/
def buildRetransmit (s : State) : Result :=
  encodeOp { s with fidin := some s.params.fidCmdRetransmit }

/-- The transmit step (R176): one `transmit` call, DRVCODE, STATUS, one notification. -/
def transmitStep (s : State) : Result :=
  match s.tx with
  | none => .fault (.invalidOperand .txbuf)
  | some tx =>
    let st := (drawTransmit s).1
    let s := logCall (.transmit tx.bytes tx.len.toNat st) (drawTransmit s).2
    .next (emit (.txStatus st)
      { s with drvcode := some st, status := if st = s.params.drvOk then stOk else stTransport })

/-- `0x7` COLLECT (R175). -/
def execCollect (line : List Byte) (s : State) : Result := guardOptLen s (collectOp line)

/-- Frame row ping: `CS ++ [FID_CMD_PING]`, built as R171 says (log 9). -/
def execFrameCmdPing (s : State) : Result := buildCommand s.params.fidCmdPing s

/-- Frame row request-system-info: `CS ++ [FID_CMD_SYSINFO]`, built as R172 says (log 9). -/
def execFrameCmdSysinfo (s : State) : Result := buildCommand s.params.fidCmdSysinfo s

/-- Frame row request-last-packet-info: `CS ++ [FID_CMD_LASTPKT]`, built as R173 says (log 9). -/
def execFrameCmdLastpkt (s : State) : Result := buildCommand s.params.fidCmdLastpkt s

/-- Frame row request-retransmit: built as R174 says from the line COLLECT left in OPT (log 9). -/
def execFrameCmdRetransmit (s : State) : Result := buildRetransmit s

/-- `0x8` SEND_PING (R171). -/
def execSendPing (s : State) : Result :=
  guardOptLen s fun s => andThen (buildCommand s.params.fidCmdPing s) transmitStep

/-- `0x9` SEND_REQSYS (R172). -/
def execSendReqsys (s : State) : Result :=
  guardOptLen s fun s => andThen (buildCommand s.params.fidCmdSysinfo s) transmitStep

/-- `0xA` SEND_REQPKT (R173). -/
def execSendReqpkt (s : State) : Result :=
  guardOptLen s fun s => andThen (buildCommand s.params.fidCmdLastpkt s) transmitStep

/-- `0xB` SEND_RETX (R174). -/
def execSendRetx (line : List Byte) (s : State) : Result :=
  guardOptLen s fun s =>
    andThen (collectOp line s) fun s => andThen (buildRetransmit s) transmitStep

end Sys2Proof.Machine
end

