-- ==== Sys2Proof/Machine/Telemetry.lean ====
section
/-! DEFINITION. The Telemetry Decoder (41_telemetry_decoder.md): DSYSINFO (R121), DLASTPKT (R128), DREPEAT (R132), and the physical
values of the results as exact rationals (R84, R129, R130). -/

namespace Sys2Proof.Machine

/-- DSYSINFO's pseudocode (R121): the length test comes before any read; all eleven results are written, or none. -/
def dsysinfoOp (s : State) : Result :=
  withOpt s fun o =>
    if o.len.toNat < sysinfoLen s.params.layout then finish stTooShort { s with telemetry := none }
    else finish stOk { s with telemetry := some (SysInfo.build (fieldValue s.params.layout o.mem)) }

/-- DLASTPKT's pseudocode (R128, R131): exactly two bytes, both unsigned. -/
def dlastpktOp (s : State) : Result :=
  withOpt s fun o =>
    if o.len.toNat < 2 then finish stTooShort { s with packet := none }
    else if 2 < o.len.toNat then finish stTooLong { s with packet := none }
    else finish stOk { s with packet := some { snrq := Memory.read o.mem 0, rssih := Memory.read o.mem 1 } }

/-- DREPEAT's pseudocode (R132): the result is OPT itself. -/
def drepeatOp (s : State) : Result :=
  withOpt s fun _ => finish stOk { s with rv := true }

/-- `0x3` DSYSINFO (R121). -/
def execDsysinfo (s : State) : Result := dsysinfoOp s

/-- `0x4` DLASTPKT (R128). -/
def execDlastpkt (s : State) : Result := dlastpktOp s

/-- `0x5` DREPEAT (R132). -/
def execDrepeat (s : State) : Result := drepeatOp s

/-- The physical value of SystemInfo field `i`: the exact rational `T[i] / DEN_i` (R84, R122). -/
def physicalField (l : Config.Layout) (i : Fin 11) (t : Word32) : Rat :=
  (t.toInt : Rat) / ((l.get i).den : Rat)

/-- The SNR in dB: `SNRQ / 4` (R129). -/
def snrDb (snrq : Byte) : Rat := (snrq.toNat : Rat) / 4

/-- The RSSI in dBm: `RSSIH / (-2)` (R130). -/
def rssiDbm (rssih : Byte) : Rat := (rssih.toNat : Rat) / (-2)

end Sys2Proof.Machine
end

