-- ==== Sys2Proof/Machine/Sequencer.lean ====
section
/-! DEFINITION. The receive sequencer (42_receive_sequencer.md): the event IRQ (R151), the five dispatch branches, which are the
meanings of the inbound frame rows (R156 to R161), and POLL with its micro-steps P0 to P8 (R152), between any two of which IRQ
events may fall. -/

namespace Sys2Proof.Machine

/-- The event IRQ (R151): nothing but RXSTATE changes. -/
def execIrq (s : State) : Result := .next { s with rxstate := irqNext s.im s.rxstate }

/-! ## The dispatch branches of P6 -/

/-- Frame row pong (R156): an acknowledgement; the optional data is not examined and STATUS stays. -/
def execFrameRespPong (s : State) : Result := .next (emit .ack s)

/-- The notification after DSYSINFO inside POLL (R157). -/
def noteSysinfo (s : State) : Result :=
  match s.telemetry with
  | some t => .next (emit (.telemetry t) s)
  | none => .next (emit (errorNote s.status) s)

/-- Frame row system-info (R157): DSYSINFO, then the record or the decode error. -/
def execFrameRespSysinfo (s : State) : Result := andThen (dsysinfoOp s) noteSysinfo

/-- The notification after DLASTPKT inside POLL (R158). -/
def noteLastpkt (s : State) : Result :=
  match s.packet with
  | some p => .next (emit (.packetInfo p.snrq p.rssih) s)
  | none => .next (emit (errorNote s.status) s)

/-- Frame row last-packet-info (R158): DLASTPKT, then the record or the decode error. -/
def execFrameRespLastpkt (s : State) : Result := andThen (dlastpktOp s) noteLastpkt

/-- Frame row repeated-message (R159): DREPEAT, then the optional-data slice as relayed text (D25). -/
def execFrameRespRepeated (s : State) : Result :=
  withOpt s fun o => andThen (drepeatOp s) fun s => .next (emit (.relayedText o.bytes) s)

/-- Frame row of any other inbound function id (R161): reported with the raw byte, FID and OPT stay valid. -/
def execFrameUnrecognized (fid : Byte) (s : State) : Result :=
  andThen (finish stUnrecognized s) fun s => .next (emit (.unrecognized fid) s)

/-- P6: dispatch on `FCLASS(FID)` (R156). -/
def dispatch (s : State) : Result :=
  match s.fid with
  | none => .fault (.invalidOperand .fid)
  | some fid =>
    match classify s.params fid with
    | .pong => execFrameRespPong s
    | .sysinfo => execFrameRespSysinfo s
    | .lastpkt => execFrameRespLastpkt s
    | .repeated => execFrameRespRepeated s
    | .unrecognized => execFrameUnrecognized fid s

/-! ## The micro-steps of POLL (R152) -/

/-- P1: Processing and masked in one write; every valid flag a frame can set is cleared. -/
def pollEnter (s : State) : State :=
  { s with
    rxstate := .processing
    im := true
    fid := none
    opt := none
    telemetry := none
    packet := none
    rv := false
    rx := none }

/-- P2: the one `getPacketLength` call. -/
def pollLength (s : State) : Nat × State :=
  let r := drawPacketLength s
  (r.1, logCall (.getPacketLength r.1) r.2)

/-- P3: the one `readData` call; DRVCODE takes its status. -/
def pollRead (n : Nat) (s : State) : (DrvStatus × List Byte) × State :=
  let r := drawReadData n s
  (r.1, { logCall (.readData n r.1.1 r.1.2) r.2 with drvcode := some r.1.1 })

/-- P5 and P6 with the gap between them: DECODE; a frame error is notified and ends the interpretation, else dispatch (R155,
R156). -/
def pollInterpret (s : State) : Result :=
  andThen (decodeOp s) fun s =>
    let s := interleave s
    if s.status = stOk then dispatch s else .next (emit (errorNote s.status) s)

/-- P4 to P6: a read error is notified with the driver's status and skips decoding, RXBUF staying invalid; else RXBUF is loaded
(R154). -/
def pollFrame (st : DrvStatus) (bytes : List Byte) (s : State) : Result :=
  if st = s.params.drvOk then pollInterpret (interleave { s with rx := some (Buf.received s.env.drawn bytes) })
  else .next (emit (.error .transportRx st) { s with status := stTransport })

/-- P7: re-arm the receiver; the status is discarded (R160). -/
def pollRearm (s : State) : State :=
  let r := drawStart s
  logCall (.startReceive r.1) r.2

/-- P8: Idle and unmasked in one write (R160). -/
def pollExit (s : State) : State := { s with rxstate := .idle, im := false }

/-- P7 and P8 with the gaps before and between them: the exit every path after P1 takes (R160, R198). -/
def pollLeave (s : State) : State := pollExit (interleave (pollRearm (interleave s)))

/-- POLL after P0 has found a pending frame: P1 to P8 with the IRQ events between them (R152, R163). A packet length above RX_CAP
is no draw of the environment's (R154, U6). -/
def pollPending (s : State) : Result :=
  let p2 := pollLength (interleave (pollEnter (interleave s)))
  if s.params.rxCap < p2.1 then .refused .packetLengthAboveCapacity
  else
    let p3 := pollRead p2.1 (interleave p2.2)
    andThen (pollFrame p3.1.1 p3.1.2 (interleave p3.2)) fun s => .next (pollLeave s)

/-- POLL's pseudocode (R152): P0 returns at once when nothing is pending (R153, U14). -/
def pollOp (s : State) : Result :=
  if s.rxstate = .framePending then pollPending s else .next s

/-- `0x6` POLL (R152). -/
def execPoll (s : State) : Result := guardOptLen s pollOp

end Sys2Proof.Machine
end

