-- ==== Sys2Proof/Machine/Dispatch.lean ====
section
/-! DEFINITION. One arm per instruction, each one call of its meaning. -/

namespace Sys2Proof.Machine

def exec (i : Instr) (s : State) : Host.Outcome State Fault Refusal :=
  match i with
  | .encode => Sys2Proof.Machine.execEncode s
  | .decode => Sys2Proof.Machine.execDecode s
  | .dsysinfo => Sys2Proof.Machine.execDsysinfo s
  | .dlastpkt => Sys2Proof.Machine.execDlastpkt s
  | .drepeat => Sys2Proof.Machine.execDrepeat s
  | .poll => Sys2Proof.Machine.execPoll s
  | .collect line => Sys2Proof.Machine.execCollect line s
  | .sendPing => Sys2Proof.Machine.execSendPing s
  | .sendReqsys => Sys2Proof.Machine.execSendReqsys s
  | .sendReqpkt => Sys2Proof.Machine.execSendReqpkt s
  | .sendRetx line => Sys2Proof.Machine.execSendRetx line s
  | .reserved0 => Sys2Proof.Machine.execReserved0 s
  | .reservedC => Sys2Proof.Machine.execReservedC s
  | .reservedD => Sys2Proof.Machine.execReservedD s
  | .reservedE => Sys2Proof.Machine.execReservedE s
  | .reservedF => Sys2Proof.Machine.execReservedF s
  | .irq => Sys2Proof.Machine.execIrq s
  | .frameCmdPing => Sys2Proof.Machine.execFrameCmdPing s
  | .frameCmdRetransmit => Sys2Proof.Machine.execFrameCmdRetransmit s
  | .frameCmdSysinfo => Sys2Proof.Machine.execFrameCmdSysinfo s
  | .frameCmdLastpkt => Sys2Proof.Machine.execFrameCmdLastpkt s
  | .frameRespPong => Sys2Proof.Machine.execFrameRespPong s
  | .frameRespRepeated => Sys2Proof.Machine.execFrameRespRepeated s
  | .frameRespSysinfo => Sys2Proof.Machine.execFrameRespSysinfo s
  | .frameRespLastpkt => Sys2Proof.Machine.execFrameRespLastpkt s
  | .frameUnrecognized fid => Sys2Proof.Machine.execFrameUnrecognized fid s

end Sys2Proof.Machine
end

