-- ==== Sys2Proof/Machine/Legality.lean ====
section
/-! DEFINITION. Which configurations the spec allows: the constraints of R6, R22, R78 and R82, checked at boot (U10, U22, U24). -/

namespace Sys2Proof.Machine

/-- A printable ASCII byte, `0x20..0x7E` (R6, R22; the range is the spec's G2: PRESUMED, unsafe, log 14). -/
def printable (b : Byte) : Bool := decide (0x20 ≤ b.toNat) && decide (b.toNat ≤ 0x7E)

/-- The callsign is legal: `1 <= L <= L_MAX`, every byte printable (R22, U10). -/
def callsignLegal (p : Config.Params) : Bool :=
  decide (1 ≤ p.callsign.length) && decide (p.callsign.length ≤ p.lMax) && p.callsign.all printable

/-- The capacities are legal: `RX_CAP >= L + 1` (R6), and the 16-bit register TXLEN can hold the length `L + 2 + 255` of the largest
frame (DEDUCED from R25, R101 and R110; safe: it only refuses configurations; log 10). -/
def capacitiesLegal (p : Config.Params) : Bool :=
  decide (p.callsign.length + 1 ≤ p.rxCap) && decide (p.callsign.length + 257 < 2 ^ 16)

/-- The eight function ids are pairwise distinct (R78, U24). -/
def fidsLegal (p : Config.Params) : Bool :=
  decide ([p.fidCmdPing, p.fidCmdRetransmit, p.fidCmdSysinfo, p.fidCmdLastpkt,
           p.fidRespPong, p.fidRespRepeated, p.fidRespSysinfo, p.fidRespLastpkt].Nodup)

/-- Every product `raw * NUM_i` over the field's raw range fits a signed 32-bit register (R82). -/
def fieldFits (f : Config.Field) : Bool :=
  if f.signed then
    decide (2 ^ (8 * f.width - 1) * f.num ≤ 2 ^ 31) && decide ((2 ^ (8 * f.width - 1) - 1) * f.num < 2 ^ 31)
  else
    decide ((2 ^ (8 * f.width) - 1) * f.num < 2 ^ 31)

/-- One field is legal: width 1 to 4, positive scale numbers, and every product fits (R82). -/
def fieldLegal (f : Config.Field) : Bool :=
  decide (1 ≤ f.width) && decide (f.width ≤ 4) && decide (0 < f.num) && decide (0 < f.den) && fieldFits f

/-- The layout is legal (R82, U22): every field is, the counter and the bitfield are not scaled, the signedness the source fixes
holds (the three temperatures signed, the counter and the bitfield unsigned; that a layout is where it is checked is DEDUCED, safe,
log 3), and the total is at most 255. -/
def layoutLegal (l : Config.Layout) : Bool :=
  l.toList.all fieldLegal
  && decide (l.resetCounter.num = 1) && decide (l.resetCounter.den = 1)
  && decide (l.powerConfiguration.num = 1) && decide (l.powerConfiguration.den = 1)
  && l.batteryTemperature.signed && l.boardTemperature.signed && l.mcuTemperature.signed
  && !l.resetCounter.signed && !l.powerConfiguration.signed
  && decide (sysinfoLen l ≤ 255)

/-- The configuration is one the spec allows. -/
def paramsLegal (p : Config.Params) : Bool :=
  callsignLegal p && capacitiesLegal p && fidsLegal p && layoutLegal p.layout

end Sys2Proof.Machine
end

