-- ==== Sys2Proof/Machine/Port.lean ====
section
/-! DEFINITION. The block's boundary to its host: the boot sequence (R220), the command port (R90), the host's register writes and
reads (R209), process restart (R215); and how a word of the opcode table comes to be the machine's next instruction. -/

namespace Sys2Proof.Machine

/-- The boot sequence B1 to B5 (R220), run once. B1 refuses an illegal configuration (U10, U22, U24; that the callsign is checked
first, then the capacities, the function ids and the layout is the model's choice, log 10); the outcome of the external B2 is
`radioOk`, and where it fails the block is never started (R221); B3 registers the callback; B4 arms reception, its status not
examined; B5 confirms Idle and unmasked. The order of B1 to B5 and the call at B4 are what R220 calls the spec's inference (D33). -/
def bootSequence (radioOk : Bool) (s : State) : Result :=
  match s.boot with
  | .ready => .refused .alreadyBooted
  | .failed => .refused .bootFailed
  | .notBooted =>
    if callsignLegal s.params = false then .refused .callsignIllegal
    else if capacitiesLegal s.params = false then .refused .capacitiesIllegal
    else if fidsLegal s.params = false then .refused .functionIdsIllegal
    else if layoutLegal s.params.layout = false then .refused .layoutIllegal
    else
      let s := { s with cs := some (Buf.ofBytes s.params.callsign) }
      if radioOk then
        let s := pollRearm (logCall .registerInterruptCallback s)
        .next { s with rxstate := .idle, im := false, boot := .ready }
      else .next { s with boot := .failed }

/-- Only after the boot sequence "do the rules of this spec hold" (R220, R221). U11 says "refuse" of requests; that host writes, host
reads and driver calls of the host's own are refused alike is the model's choice (DESIGN CHOICE, safe, log 7). -/
def whenReady (s : State) (f : State → Result) : Result :=
  match s.boot with
  | .ready => f s
  | .notBooted => .refused .notBooted
  | .failed => .refused .bootFailed

/-- One port request (R90): from the main loop it runs; from interrupt context it is no run of FCTD (R200, U8). -/
def request (ctx : Context) (op : BitVec 4) (line : List Byte) (s : State) : Result :=
  match ctx with
  | .mainLoop => exec (decodePort op line) s
  | .interrupt => .refused .interruptContext

/-- A data-ready edge. Before the boot sequence has registered the callback it reaches nothing (R195, R216; DEDUCED, safe, log 7). -/
def acceptEdge (s : State) : Result :=
  if s.boot = .ready then exec .irq s else .next s

/-- The host writes OPT and OPTLEN (R209): OPTV is set, RV cleared. Above 255 bytes "the buffer contents are meaningless" (R24):
none are kept. OPTLEN holds at most 65535. -/
def writeOpt (bytes : List Byte) (s : State) : Result :=
  if 2 ^ 16 ≤ bytes.length then .refused (.writeTooLong .opt)
  else if Config.optMax < bytes.length then
    .next { s with opt := some { len := BitVec.ofNat 16 bytes.length, mem := [] }, rv := false }
  else .next { s with opt := some (Buf.ofBytes bytes), rv := false }

/-- The host writes RXBUF and RXLEN (R209), at most RX_CAP bytes (R50) and at most the 65535 that RXLEN counts (R26): RXV is set. -/
def writeRxbuf (bytes : List Byte) (s : State) : Result :=
  if s.params.rxCap < bytes.length ∨ 2 ^ 16 ≤ bytes.length then .refused (.writeTooLong .rxbuf)
  else .next { s with rx := some (Buf.ofBytes bytes) }

/-- What a host read returns. -/
inductive RegValue where
  /-- An unsigned register or a flag. -/
  | num (n : Nat)
  /-- A signed register. -/
  | int (z : Int)
  /-- The valid bytes of a buffer. -/
  | bytes (bs : List Byte)
  deriving DecidableEq, Repr

/-- A host read of a register (R209): no value where the register is invalid (R21); the contents of OPT are meaningless when OPTLEN
is above 255 (R24, log 12). -/
def hostRead (s : State) : RegName → Option RegValue
  | .cs => s.cs.map fun b => .bytes b.bytes
  | .csLen => s.cs.map fun b => .num b.len.toNat
  | .fidin => s.fidin.map fun b => .num b.toNat
  | .opt => s.opt.bind fun b => if Config.optMax < b.len.toNat then none else some (.bytes b.bytes)
  | .optLen => s.opt.map fun b => .num b.len.toNat
  | .optv => some (.num s.optv.toNat)
  | .txbuf => s.tx.map fun b => .bytes b.bytes
  | .txLen => s.tx.map fun b => .num b.len.toNat
  | .txv => some (.num s.txv.toNat)
  | .rxbuf => s.rx.map fun b => .bytes b.bytes
  | .rxLen => s.rx.map fun b => .num b.len.toNat
  | .rxv => some (.num s.rxv.toNat)
  | .fid => s.fid.map fun b => .num b.toNat
  | .fv => some (.num s.fv.toNat)
  | .t i => s.telemetry.map fun t => .int (t.get i).toInt
  | .tv => some (.num s.tv.toNat)
  | .snrq => s.packet.map fun p => .num p.snrq.toNat
  | .rssih => s.packet.map fun p => .num p.rssih.toNat
  | .pv => some (.num s.pv.toNat)
  | .rv => some (.num s.rv.toNat)
  | .status => some (.num s.status.toNat)
  | .drvcode => s.drvcode.map fun c => .int c
  | .rxstate => some (.num (rxCode s.rxstate).toNat)
  | .im => some (.num s.im.toNat)

/-- A host read as an event: no side effect (R56); what it returns is `hostRead`. A read of an invalid register "returns no value (a
model returns `none`, or faults)" (R21): it returns `none` here (DESIGN CHOICE, safe, log 1). -/
def acceptRead (_r : RegName) (s : State) : Result := .next s

/-- A driver call the host makes itself: from the handler it is no run of FCTD (R63, U23); from the main loop between two operations
it is outside the block and changes nothing of it (R43, R177, R231; DEDUCED, safe, log 15). Before the end of boot or after a failed
boot `whenReady` refuses it first, of which R63 says nothing (DESIGN CHOICE, safe, log 7). -/
def acceptDriverCall (ctx : Context) (s : State) : Result :=
  match ctx with
  | .mainLoop => .next s
  | .interrupt => .refused .driverFromHandler

/-- One event at an operation boundary. -/
def acceptEvent (e : Event) (s : State) : Result :=
  match e with
  | .boot radioOk => bootSequence radioOk s
  | .restart p => .next (State.resetWith p s.inputs s.env)
  | .request ctx op line => whenReady s (request ctx op line)
  | .edge => acceptEdge s
  | .writeFidin b => whenReady s fun s => .next { s with fidin := some b }
  | .writeOpt bytes => whenReady s (writeOpt bytes)
  | .writeRxbuf bytes => whenReady s (writeRxbuf bytes)
  | .writeOther r => whenReady s fun _ => .refused (.readOnlyRegister r)
  | .read r => whenReady s (acceptRead r)
  | .driverCall ctx => whenReady s (acceptDriverCall ctx)

/-! ## Placing a word of the opcode table as the next instruction (log 6, log 11) -/

/-- The machine with its boot sequence behind it: as it stands if it has been booted, else booted with a successful radio
initialisation. -/
def bootedForFetch (s : State) : State :=
  match s.boot with
  | .ready => s
  | .notBooted => (nextState? (bootSequence true s)).getD s
  | .failed => s

/-- A request from the main loop put first. -/
def placeRequest (op : BitVec 4) (s : State) : State :=
  { s with inputs := .request .mainLoop op [] :: s.inputs }

/-- A frame without optional data whose function id is `fid`, waiting in the radio with its edge already seen, and POLL put first:
the frame is what POLL fetches, decodes and dispatches. -/
def placeFrame (fid : Byte) (s : State) : State :=
  let frame := encodeFrame s.params.callsign fid []
  placeRequest 0x6#4
    { s with
      rxstate := .framePending
      im := false
      env := { s.env with
        packetLength := frame.length :: s.env.packetLength
        readData := (s.params.drvOk, frame) :: s.env.readData } }

/-- A word of the opcode table put where the machine takes its next instruction. -/
def placeWord (s : State) (nbits w : Nat) : State :=
  match tableInput nbits w with
  | some (.port op _) => placeRequest op (bootedForFetch s)
  | some (.inbound fid) => placeFrame fid (bootedForFetch s)
  | some .edge => s
  | some (.outbound _) => s
  | none => s

end Sys2Proof.Machine
end

