-- ==== Sys2Proof/Machine/Step.lean ====
section
/-! DEFINITION. One step: the oldest thing the host or the radio does next. FCTD has no program counter and fetches nothing (R28);
"which operation runs next is decided by the host alone". -/

namespace Sys2Proof.Machine

/-- One step of the machine. With nothing asked of it the block waits: it "never halts of itself" (R215, R222). -/
def step : State → Host.Outcome State Fault Refusal := fun s =>
  match s.inputs with
  | [] => .next s
  | e :: rest => acceptEvent e { s with inputs := rest }

/-- The state with a word of the opcode table as what the next step runs (log 6, log 11). -/
def State.withFetchWord (s : State) (nbits w : Nat) : State := placeWord s nbits w

end Sys2Proof.Machine
end

