-- ==== Sys2Proof/Machine/Presentation.lean ====
section
/-! DEFINITION. The presentation collaborator (R208): which of the source's notification forms each element of NOTE is handed over
as. No operation reads any of it; the texts of status lines are not in the source (N13). -/

namespace Sys2Proof.Machine

/-- What a status line speaks of; its text is the presentation layer's. -/
inductive StatusLine where
  | acknowledged
  | unrecognizedId (fid : Byte)
  | transmitted
  deriving DecidableEq, Repr

/-- The kind of an `error(kind, code)` form. -/
inductive FormError where
  | reported (kind : ErrorKind)
  | transport
  deriving DecidableEq, Repr

/-- The forms the presentation collaborator accepts. `progress(percent)` is listed by the source and emitted by no rule (R208). -/
inductive Form where
  | progress (percent : Fin 101)
  | statusLine (line : StatusLine)
  | telemetry (t : SysInfo Word32)
  | packetInfo (snrDb rssiDbm : Rat)
  | relayedText (bytes : List Byte)
  | error (kind : FormError) (code : Int)
  deriving DecidableEq, Repr

/-- The mapping of R208. For `Unrecognized` the choice between its two forms is the presentation layer's: the status line is taken
here (DESIGN CHOICE, safe, log 13). -/
def formOf (p : Config.Params) : Note → Form
  | .ack => .statusLine .acknowledged
  | .telemetry t => .telemetry t
  | .packetInfo snrq rssih => .packetInfo (snrDb snrq) (rssiDbm rssih)
  | .relayedText bytes => .relayedText bytes
  | .unrecognized fid => .statusLine (.unrecognizedId fid)
  | .error kind code => .error (.reported kind) code
  | .txStatus code => if code = p.drvOk then .statusLine .transmitted else .error .transport code

/-- The notifications left when frame errors are taken as silent: the filter of R155 and C2. -/
def silentNotes (notes : List Note) : List Note :=
  notes.filter fun n =>
    match n with
    | .error .frameTruncated _ => false
    | .error .frameNotAddressed _ => false
    | _ => true

end Sys2Proof.Machine
end

