-- ==== Sys2Proof/Safety.lean ====
section
/-! DEFINITION. What claims about runs speak of: the invariant of R41 with the facts about capacities, status codes and boot that go
with it, the conditions under which an operation runs, and the ends of a run (R222). -/

namespace Sys2Proof.Machine

/-- Every buffer that holds a value is in canonical form. -/
def bufWf (o : Option Buf) : Prop := ∀ b, o = some b → b.wf = true

/-- The codes STATUS takes (R29, R186): `0x0` to `0x7` and `0xF`. -/
abbrev isStatusCode (c : BitVec 4) : Prop := c.toNat ≤ 7 ∨ c = stIllegal

/-- The lengths an encoded frame can have (R41 I4, R74). -/
abbrev isFrameLength (l n : Nat) : Prop := n = l + 1 ∨ (l + 3 ≤ n ∧ n ≤ l + 257)

/-- The invariant of the machine at operation boundaries. -/
structure Inv (s : State) : Prop where
  /-- The four buffers are in canonical form and list no byte beyond their valid length; of RXBUF the latter where RXLEN counts every
  packet (log 10). -/
  csWf : bufWf s.cs
  optWf : bufWf s.opt
  txWf : bufWf s.tx
  rxWf : s.params.rxCap < 2 ^ 16 → bufWf s.rx
  /-- RXBUF is in canonical form and has a capacity of RX_CAP bytes (R26, R50). -/
  rxMem : ∀ b, s.rx = some b → b.mem.wf = true ∧ Memory.below s.params.rxCap b.mem = true
  /-- OPT has a capacity of 255 bytes (R24, R50). -/
  optCap : ∀ b, s.opt = some b → Memory.below 255 b.mem = true
  /-- I1 of R41: after boot, CS and CSLEN hold the configured callsign, and the configuration is legal (R22). -/
  configured : s.boot = .ready → paramsLegal s.params = true ∧ s.cs = some (Buf.ofBytes s.params.callsign)
  /-- Before the boot sequence has finished, every register but CS is as reset left it (R42, U11). -/
  fresh : s.boot ≠ .ready →
    s.fidin = none ∧ s.opt = none ∧ s.tx = none ∧ s.rx = none ∧ s.fid = none ∧ s.telemetry = none ∧ s.packet = none
      ∧ s.rv = false ∧ s.status = stOk ∧ s.drvcode = none ∧ s.rxstate = .idle ∧ s.note = [] ∧ s.drvlog = []
  /-- I2 of R41: `IM = 1` exactly when `RXSTATE = Processing` (R32). -/
  mask : s.im = true ↔ s.rxstate = .processing
  /-- I5 of R41: outside POLL, RXSTATE is not Processing. -/
  settled : s.rxstate ≠ .processing
  /-- I4 of R41: the length of an encoded frame. -/
  txLength : ∀ b, s.tx = some b → isFrameLength s.params.callsign.length b.len.toNat
  /-- RXBUF holds at most RX_CAP bytes (R26, R50). -/
  rxCap : ∀ b, s.rx = some b → b.len.toNat ≤ s.params.rxCap
  /-- RV speaks of a valid OPT of at most 255 bytes (R37, R24). -/
  relayed : s.rv = true → ∃ b, s.opt = some b ∧ b.len.toNat ≤ 255
  /-- STATUS holds one of its codes (R29). -/
  statusCode : isStatusCode s.status
  /-- DRVCODE holds a value of the driver's status type (R30, R207). -/
  driverCode : ∀ c, s.drvcode = some c → isStatus s.params c = true

/-- OPT holds no malformed operand: it is invalid, or OPTLEN is at most 255 (R24, U15). -/
def OptLenOk (s : State) : Prop := ∀ o, s.opt = some o → o.len.toNat ≤ 255

/-- The environment's next `getPacketLength` answer is one R205 allows: at most RX_CAP (U6). -/
def LengthDrawOk (s : State) : Prop := ∀ n, s.env.packetLength.head? = some n → n ≤ s.params.rxCap

/-- A run is complete when the last request has written its final register: nothing is left to do (R222). -/
def Complete (s : State) : Prop := s.inputs = []

/-- A complete run is quiescent when moreover RXSTATE is Idle (R222). -/
def Quiescent (s : State) : Prop := Complete s ∧ s.rxstate = .idle

/-- The pure operations of R34's first five rows and COLLECT: those a model of the codec and decoder alone consists of (R3). -/
def isPure : Instr → Bool
  | .encode => true
  | .decode => true
  | .dsysinfo => true
  | .dlastpkt => true
  | .drepeat => true
  | .collect _ => true
  | .poll => false
  | .sendPing => false
  | .sendReqsys => false
  | .sendReqpkt => false
  | .sendRetx _ => false
  | .reserved0 => false
  | .reservedC => false
  | .reservedD => false
  | .reservedE => false
  | .reservedF => false
  | .irq => false
  | .frameCmdPing => false
  | .frameCmdRetransmit => false
  | .frameCmdSysinfo => false
  | .frameCmdLastpkt => false
  | .frameRespPong => false
  | .frameRespRepeated => false
  | .frameRespSysinfo => false
  | .frameRespLastpkt => false
  | .frameUnrecognized _ => false

/-- Two states agree on everything but what the environment has ready and how often it has been asked. -/
def sameButEnv (s t : State) : Prop := { s with env := t.env } = t

end Sys2Proof.Machine
end

