-- ==== Sys2Proof/Certificates/Slice0/Obligations.lean ====
section
/-! DEFINITION. The statements about FCTD, each from the numbered rules of the spec it cites. -/

open Sys2Proof Sys2Proof.Machine

/-! ## Reset, boot, step -/

/-- R215, R42: a process restart forgets everything, whatever the state: every register holds no value but `STATUS = 0x0`, `RV = 0`,
`RXSTATE = Idle`, `IM = 0`, both histories are empty, and the boot sequence is still to run (R220). That the
parameters are those the new process is given, and that the events and answers to come stay, is the model's choice (logs 3, 4, 6). -/
def Obligations.RestartForgetsEverything : Prop :=
  ∀ (s : State) (p : Config.Params) (rest : List Event), s.inputs = .restart p :: rest →
    ∃ t, step s = .next t ∧ t.cs = none ∧ t.fidin = none ∧ t.opt = none ∧ t.tx = none ∧ t.rx = none ∧ t.fid = none
      ∧ t.telemetry = none ∧ t.packet = none ∧ t.rv = false ∧ t.status = 0x0#4 ∧ t.drvcode = none ∧ t.rxstate = .idle
      ∧ t.im = false ∧ t.note = [] ∧ t.drvlog = [] ∧ t.boot = .notBooted ∧ t.params = p ∧ t.inputs = rest ∧ t.env = s.env

/-- R42, first column: the state right after reset. -/
def Obligations.ResetRegisters : Prop :=
  State.reset.cs = none ∧ State.reset.fidin = none ∧ State.reset.opt = none ∧ State.reset.tx = none ∧ State.reset.rx = none
    ∧ State.reset.fid = none ∧ State.reset.telemetry = none ∧ State.reset.packet = none ∧ State.reset.rv = false
    ∧ State.reset.status = 0x0#4 ∧ State.reset.drvcode = none ∧ State.reset.rxstate = .idle ∧ State.reset.im = false
    ∧ State.reset.note = [] ∧ State.reset.drvlog = []

/-- R220, R221, R22: the boot sequence. On a machine not yet booted, B1 refuses `L = 0`, `L > L_MAX` or a byte that is not printable,
capacities that hold no frame, function ids that are not pairwise distinct (U24) and an illegal layout (U22), which R82 spells out;
a configuration with none of these faults and a successful B2 ends with CS and CSLEN set, the callback registered, reception armed,
Idle and unmasked; with a failed B2 the block is never started. A second boot is refused (it is "run once"), and so is one after a
failed one. The printable range is the spec's general knowledge G2 (log 14); the order of the refusals and the bound on `L + 257` are
log 10; the order of B1 to B5 and the startReceive at boot are what R220 calls the spec's inference (D33); that a failed boot keeps the
callsign is log 7; that a layout which departs from the signedness R82's table fixes counts as illegal is log 3. -/
def Obligations.BootSequence : Prop :=
  ∀ (s : State) (radioOk : Bool) (rest : List Event), s.inputs = .boot radioOk :: rest →
    (s.boot = .notBooted →
      (s.params.callsign = [] ∨ s.params.lMax < s.params.callsign.length
          ∨ (∃ b ∈ s.params.callsign, b.toNat < 0x20 ∨ 0x7E < b.toNat) →
        step s = .refused .callsignIllegal)
      ∧ (callsignLegal s.params = true →
          s.params.rxCap < s.params.callsign.length + 1 ∨ 65536 ≤ s.params.callsign.length + 257 →
        step s = .refused .capacitiesIllegal)
      ∧ (callsignLegal s.params = true → capacitiesLegal s.params = true →
          ¬ [s.params.fidCmdPing, s.params.fidCmdRetransmit, s.params.fidCmdSysinfo, s.params.fidCmdLastpkt,
             s.params.fidRespPong, s.params.fidRespRepeated, s.params.fidRespSysinfo, s.params.fidRespLastpkt].Nodup →
        step s = .refused .functionIdsIllegal)
      ∧ (callsignLegal s.params = true → capacitiesLegal s.params = true → fidsLegal s.params = true →
          layoutLegal s.params.layout = false →
        step s = .refused .layoutIllegal)
      ∧ (s.params.callsign ≠ [] → s.params.callsign.length ≤ s.params.lMax →
          (∀ b ∈ s.params.callsign, 0x20 ≤ b.toNat ∧ b.toNat ≤ 0x7E) →
          s.params.callsign.length + 1 ≤ s.params.rxCap → s.params.callsign.length + 257 < 65536 →
          [s.params.fidCmdPing, s.params.fidCmdRetransmit, s.params.fidCmdSysinfo, s.params.fidCmdLastpkt,
           s.params.fidRespPong, s.params.fidRespRepeated, s.params.fidRespSysinfo, s.params.fidRespLastpkt].Nodup →
          layoutLegal s.params.layout = true →
        ∃ b, b.len.toNat = s.params.callsign.length ∧ b.bytes = s.params.callsign
          ∧ (radioOk = true → ∃ st e, step s = .next { s with
              inputs := rest, cs := some b, boot := .ready, rxstate := .idle, im := false, env := e,
              drvlog := s.drvlog ++ [.registerInterruptCallback, .startReceive st] })
          ∧ (radioOk = false → step s = .next { s with inputs := rest, cs := some b, boot := .failed })))
    ∧ (layoutLegal s.params.layout = true ↔
        (∀ i : Fin 11, 1 ≤ (s.params.layout.get i).width ∧ (s.params.layout.get i).width ≤ 4
          ∧ 0 < (s.params.layout.get i).num ∧ 0 < (s.params.layout.get i).den
          ∧ ∀ raw : Int,
              (if (s.params.layout.get i).signed
               then -(2 : Int) ^ (8 * (s.params.layout.get i).width - 1) ≤ raw
                 ∧ raw < (2 : Int) ^ (8 * (s.params.layout.get i).width - 1)
               else 0 ≤ raw ∧ raw < (2 : Int) ^ (8 * (s.params.layout.get i).width)) →
              -(2 : Int) ^ 31 ≤ raw * ((s.params.layout.get i).num : Int)
                ∧ raw * ((s.params.layout.get i).num : Int) < (2 : Int) ^ 31)
        ∧ (∀ i : Fin 11, i = 9 ∨ i = 10 → (s.params.layout.get i).num = 1 ∧ (s.params.layout.get i).den = 1)
        ∧ (∀ i : Fin 11, i = 6 ∨ i = 7 ∨ i = 8 → (s.params.layout.get i).signed = true)
        ∧ (∀ i : Fin 11, i = 9 ∨ i = 10 → (s.params.layout.get i).signed = false)
        ∧ sysinfoLen s.params.layout ≤ 255)
    ∧ (s.boot = .ready → step s = .refused .alreadyBooted)
    ∧ (s.boot = .failed → step s = .refused .bootFailed)

/-- R14, R90: when the request at the head of the queue decodes to `i`, the step is exec of `i` on the state with that request
taken. -/
def Obligations.StepRunsRequest : Prop :=
  ∀ (s : State) (op : BitVec 4) (line : List Byte) (rest : List Event) (i : Instr),
    s.boot = .ready → s.inputs = .request .mainLoop op line :: rest → decode s.params (.port op line) = .ok i →
      step s = exec i { s with inputs := rest }

/-- R151, R195: a data-ready edge after boot is exec of IRQ on the state with the edge taken; before the callback is registered it
reaches nothing (log 7). -/
def Obligations.StepRunsEdge : Prop :=
  ∀ (s : State) (rest : List Event), s.inputs = .edge :: rest →
    (∀ i, s.boot = .ready → decode s.params .edge = .ok i → step s = exec i { s with inputs := rest })
    ∧ (s.boot ≠ .ready → step s = .next { s with inputs := rest })

/-- R215, R222: with nothing asked of it the block waits, unchanged. That this is a step of the model is the model's choice
(log 6). -/
def Obligations.BlockWaits : Prop :=
  ∀ s : State, Complete s → step s = .next s

/-- R222, R41 (I5): the step that completes a run leaves it quiescent or with a frame the host has not yet polled: Processing at the
end of a complete run is impossible. -/
def Obligations.CompleteRunsSettled : Prop :=
  ∀ s t : State, Inv s → step s = .next t → Complete t → Quiescent t ∨ t.pending = true

/-- R156: POLL's dispatch step is exec of the frame instruction that FID decodes to. -/
def Obligations.DispatchRunsFrameInstruction : Prop :=
  ∀ (s : State) (fid : Byte) (i : Instr), s.fid = some fid → decode s.params (.inbound fid) = .ok i → dispatch s = exec i s

/-! ## Encodings -/

/-- R90: the operation of each of the sixteen codes, LINEIN the operand of two of them, and the event that has no code. -/
def Obligations.OperationCodes : Prop :=
  (∀ p : Config.Params, decode p .edge = .ok .irq) ∧ ∀ line : List Byte,
    decodePort 0x1#4 line = .encode ∧ decodePort 0x2#4 line = .decode ∧ decodePort 0x3#4 line = .dsysinfo
    ∧ decodePort 0x4#4 line = .dlastpkt ∧ decodePort 0x5#4 line = .drepeat ∧ decodePort 0x6#4 line = .poll
    ∧ decodePort 0x7#4 line = .collect line ∧ decodePort 0x8#4 line = .sendPing ∧ decodePort 0x9#4 line = .sendReqsys
    ∧ decodePort 0xA#4 line = .sendReqpkt ∧ decodePort 0xB#4 line = .sendRetx line ∧ decodePort 0x0#4 line = .reserved0
    ∧ decodePort 0xC#4 line = .reservedC ∧ decodePort 0xD#4 line = .reservedD ∧ decodePort 0xE#4 line = .reservedE
    ∧ decodePort 0xF#4 line = .reservedF

/-- R79: `FCLASS` is the class of each response id and UNRECOGNIZED on every other byte, with the class codes 0 to 4. -/
def Obligations.FunctionIdClasses : Prop :=
  ∀ p : Config.Params, fidsLegal p = true →
    fclassCode (classify p p.fidRespPong) = 0#3 ∧ fclassCode (classify p p.fidRespSysinfo) = 1#3
    ∧ fclassCode (classify p p.fidRespLastpkt) = 2#3 ∧ fclassCode (classify p p.fidRespRepeated) = 3#3
    ∧ ∀ fid : Byte, fid ≠ p.fidRespPong → fid ≠ p.fidRespSysinfo → fid ≠ p.fidRespLastpkt → fid ≠ p.fidRespRepeated →
        fclassCode (classify p fid) = 4#3

/-- R80: the four command ids are UNRECOGNIZED when they arrive inbound. -/
def Obligations.InboundCommandsUnrecognized : Prop :=
  ∀ p : Config.Params, fidsLegal p = true → ∀ fid ∈ [p.fidCmdPing, p.fidCmdRetransmit, p.fidCmdSysinfo, p.fidCmdLastpkt],
    decodeInbound p fid = .frameUnrecognized fid

/-- R77, R79, R80, R90, R91: decoding the encoding of a well-formed instruction gives it back, for every operand. -/
def Obligations.DecodeEncodeAgree : Prop :=
  ∀ (p : Config.Params) (i : Instr), fidsLegal p = true → WellFormed p i = true → decode p (encode p i) = .ok i

/-- R77, R79, R90, R91: the other direction: the encoding of what an input decodes to is that input, where the input carries LINEIN
only with the two operations that read it (R38). -/
def Obligations.EncodeDecodeAgree : Prop :=
  ∀ (p : Config.Params) (x : Input) (i : Instr), decode p x = .ok i →
    (∀ op line, x = .port op line → line = [] ∨ op = 0x7#4 ∨ op = 0xB#4) → encode p i = x ∧ i.kind = x.kind

/-! ## Stops -/

/-- R21 (U9): an operation whose operand register holds no value faults on it, the port operations under the condition that OPT is
not malformed, and so ENCODE, whose size test comes first (R103, log 1); POLL and the senders reach CS inside. Which of several missing operands is named is the model's choice (log 1); that
a frame row is an operation of its own too (log 9). -/
def Obligations.InvalidOperandsFault : Prop :=
  ∀ s : State,
    (OptLenOk s → s.cs = none → exec .encode s = .fault (.invalidOperand .cs))
    ∧ (OptLenOk s → s.cs ≠ none → s.fidin = none → exec .encode s = .fault (.invalidOperand .fidin))
    ∧ (s.cs ≠ none → s.fidin ≠ none → s.opt = none → exec .encode s = .fault (.invalidOperand .opt))
    ∧ (OptLenOk s → s.cs = none → exec .decode s = .fault (.invalidOperand .cs))
    ∧ (OptLenOk s → s.cs ≠ none → s.rx = none → exec .decode s = .fault (.invalidOperand .rxbuf))
    ∧ (s.opt = none → ∀ i ∈ [Instr.dsysinfo, .dlastpkt, .drepeat, .frameRespSysinfo, .frameRespLastpkt, .frameRespRepeated],
        exec i s = .fault (.invalidOperand .opt))
    ∧ (OptLenOk s → s.cs = none →
        (∀ i ∈ [Instr.sendPing, .sendReqsys, .sendReqpkt], exec i s = .fault (.invalidOperand .cs))
        ∧ ∀ line, exec (.sendRetx line) s = .fault (.invalidOperand .cs))
    ∧ (s.cs = none → ∀ i ∈ [Instr.frameCmdPing, .frameCmdSysinfo, .frameCmdLastpkt],
        exec i s = .fault (.invalidOperand .cs))
    ∧ (OptLenOk s → s.cs = none → exec .frameCmdRetransmit s = .fault (.invalidOperand .cs))
    ∧ (s.cs ≠ none → s.opt = none → exec .frameCmdRetransmit s = .fault (.invalidOperand .opt))
    ∧ (OptLenOk s → LengthDrawOk s → s.rxstate = .framePending → s.cs = none →
        (∃ bytes reads, s.env.readData = (s.params.drvOk, bytes) :: reads) → exec .poll s = .fault (.invalidOperand .cs))

/-- R24 (U15): with OPTLEN above 255 only ENCODE may be issued: every other operation of the port's eleven faults (log 12), and so
does a dispatch branch that reads OPT. -/
def Obligations.MalformedOptFaults : Prop :=
  ∀ (s : State) (o : Buf), s.opt = some o → 255 < o.len.toNat →
    (∀ (op : BitVec 4) (line : List Byte), 2 ≤ op.toNat → op.toNat ≤ 0xB →
      exec (decodePort op line) s = .fault .optLenAbove255)
    ∧ ∀ i ∈ [Instr.frameRespSysinfo, .frameRespLastpkt, .frameRespRepeated], exec i s = .fault .optLenAbove255

/-- R200, R220, R221 (U8, U11): a request from interrupt context, before boot, or after a failed boot is no run of FCTD. -/
def Obligations.RequestsRefused : Prop :=
  ∀ (s : State) (ctx : Context) (op : BitVec 4) (line : List Byte) (rest : List Event),
    s.inputs = .request ctx op line :: rest →
      (s.boot = .ready → ctx = .interrupt → step s = .refused .interruptContext)
      ∧ (s.boot = .notBooted → step s = .refused .notBooted)
      ∧ (s.boot = .failed → step s = .refused .bootFailed)

/-- R209 (U20), R24, R26, R50: what a host can write after boot, and what each write changes: FIDIN; OPT with OPTLEN, setting OPTV and
clearing RV; RXBUF with RXLEN, setting RXV; more bytes than RXBUF holds are refused (R50), and so is every other form. That a write of
65536 bytes or more, which the 16-bit length register cannot count, is refused is the model's choice (log 10); what a write of more than
255 bytes leaves in OPT is log 2. -/
def Obligations.HostWrites : Prop :=
  ∀ (s : State) (e : Event) (rest : List Event), s.boot = .ready → s.inputs = e :: rest →
    (∀ b, e = .writeFidin b → step s = .next { s with inputs := rest, fidin := some b })
    ∧ (∀ bs, e = .writeOpt bs → bs.length ≤ 255 →
        ∃ o, step s = .next { s with inputs := rest, opt := some o, rv := false }
          ∧ o.len.toNat = bs.length ∧ o.bytes = bs)
    ∧ (∀ bs, e = .writeOpt bs → 255 < bs.length → bs.length < 65536 →
        ∃ o, step s = .next { s with inputs := rest, opt := some o, rv := false } ∧ o.len.toNat = bs.length)
    ∧ (∀ bs, e = .writeRxbuf bs → bs.length ≤ s.params.rxCap → bs.length < 65536 →
        ∃ r, step s = .next { s with inputs := rest, rx := some r } ∧ r.len.toNat = bs.length ∧ r.bytes = bs)
    ∧ (∀ bs, e = .writeOpt bs → 65536 ≤ bs.length → step s = .refused (.writeTooLong .opt))
    ∧ (∀ bs, e = .writeRxbuf bs → s.params.rxCap < bs.length ∨ 65536 ≤ bs.length →
        step s = .refused (.writeTooLong .rxbuf))
    ∧ (∀ r, e = .writeOther r → step s = .refused (.readOnlyRegister r))

/-- R21, R209, R31: a host read changes nothing; it returns no value where the register holds none, and what it returns for STATUS,
the flags, RXSTATE and the registers of a decoded frame. R21 lets a model return none or fault there; that this one returns none is
its choice (log 1). -/
def Obligations.HostReads : Prop :=
  ∀ (s : State) (r : RegName) (rest : List Event), s.boot = .ready → s.inputs = .read r :: rest →
    step s = .next { s with inputs := rest }
    ∧ (s.fid = none → hostRead s .fid = none) ∧ (s.fidin = none → hostRead s .fidin = none)
    ∧ (s.tx = none → hostRead s .txbuf = none ∧ hostRead s .txLen = none)
    ∧ (s.rx = none → hostRead s .rxbuf = none ∧ hostRead s .rxLen = none)
    ∧ (s.opt = none → hostRead s .opt = none ∧ hostRead s .optLen = none)
    ∧ (s.telemetry = none → ∀ i, hostRead s (.t i) = none)
    ∧ (s.packet = none → hostRead s .snrq = none ∧ hostRead s .rssih = none)
    ∧ (s.drvcode = none → hostRead s .drvcode = none)
    ∧ hostRead s .status = some (.num s.status.toNat)
    ∧ (hostRead s .fv = some (.num 1) ↔ s.fid ≠ none) ∧ (hostRead s .optv = some (.num 1) ↔ s.opt ≠ none)
    ∧ (hostRead s .im = some (.num 1) ↔ s.im = true) ∧ (hostRead s .rxstate = some (.num 1) ↔ s.rxstate = .framePending)
    ∧ (∀ fid, s.fid = some fid → hostRead s .fid = some (.num fid.toNat))
    ∧ (∀ o, s.opt = some o → o.len.toNat ≤ 255 → hostRead s .opt = some (.bytes o.bytes))
    ∧ (∀ t, s.telemetry = some t → ∀ i, hostRead s (.t i) = some (.int (t.get i).toInt))

/-! ## Frame Codec -/

/-- R101: ENCODE. More than 255 bytes of optional data raise the size error. Else TXBUF holds the callsign, FIDIN, and for `N >= 1` the
length byte and the optional data; TXLEN is `L + 1` or `L + 2 + N`; nothing else changes. `L + 257 < 65536` says that TXLEN has 16
bits (R25, log 10). -/
def Obligations.EncodeResult : Prop :=
  ∀ (s : State) (c o : Buf) (fid : Byte), s.cs = some c → s.fidin = some fid → s.opt = some o →
    (255 < o.len.toNat → exec .encode s = .next { s with tx := none, status := 0x5#4 })
    ∧ (o.len.toNat ≤ 255 → c.len.toNat + 257 < 65536 →
      ∃ b, exec .encode s = .next { s with tx := some b, status := 0x0#4 }
        ∧ b.len.toNat = (if o.len.toNat = 0 then c.len.toNat + 1 else c.len.toNat + 2 + o.len.toNat)
        ∧ (∀ k, k < c.len.toNat → b.mem.read k = c.mem.read k)
        ∧ b.mem.read c.len.toNat = fid
        ∧ (o.len.toNat ≠ 0 → (b.mem.read (c.len.toNat + 1)).toNat = o.len.toNat
            ∧ ∀ k, k < o.len.toNat → b.mem.read (c.len.toNat + 2 + k) = o.mem.read k))

/-- R103: ENCODE with `OPTLEN > 255`: STATUS is 0x5, TXV is 0, nothing else changes. The test is on OPTLEN alone: whether CS and
FIDIN hold a value does not matter, which is how the model reads R103 beside R21 (log 1). -/
def Obligations.EncodeSizeError : Prop :=
  ∀ (s : State) (o : Buf), s.opt = some o → 255 < o.len.toNat →
    exec .encode s = .next { s with tx := none, status := 0x5#4 }

/-- R105, R106, R107: DECODE, its three checks in their order, the result on success and on each failure; nothing else changes. -/
def Obligations.DecodeResult : Prop :=
  ∀ (s : State) (c r : Buf), s.cs = some c → s.rx = some r → OptLenOk s →
    (r.len.toNat < c.len.toNat + 1 →
      exec .decode s = .next { s with fid := none, opt := none, rv := false, status := 0x1#4 })
    ∧ (c.len.toNat + 1 ≤ r.len.toNat → (∃ k, k < c.len.toNat ∧ r.mem.read k ≠ c.mem.read k) →
      exec .decode s = .next { s with fid := none, opt := none, rv := false, status := 0x2#4 })
    ∧ (c.len.toNat + 1 ≤ r.len.toNat → (∀ k, k < c.len.toNat → r.mem.read k = c.mem.read k) →
      (r.len.toNat = c.len.toNat + 1 →
        ∃ o, exec .decode s = .next
            { s with fid := some (r.mem.read c.len.toNat), opt := some o, rv := false, status := 0x0#4 }
          ∧ o.len.toNat = 0)
      ∧ (c.len.toNat + 2 ≤ r.len.toNat →
        (r.len.toNat < c.len.toNat + 2 + (r.mem.read (c.len.toNat + 1)).toNat →
          exec .decode s = .next { s with fid := none, opt := none, rv := false, status := 0x1#4 })
        ∧ (c.len.toNat + 2 + (r.mem.read (c.len.toNat + 1)).toNat ≤ r.len.toNat →
          ∃ o, exec .decode s = .next
              { s with fid := some (r.mem.read c.len.toNat), opt := some o, rv := false, status := 0x0#4 }
            ∧ o.len.toNat = (r.mem.read (c.len.toNat + 1)).toNat
            ∧ ∀ k, k < o.len.toNat → o.mem.read k = r.mem.read (c.len.toNat + 2 + k))))

/-- R110: the round trip. After ENCODE, DECODE of the frame in RXBUF, in any state with the same callsign, returns the function id
and the optional data. -/
def Obligations.FrameRoundTrip : Prop :=
  ∀ (s : State) (c o : Buf) (fid : Byte), s.cs = some c → s.fidin = some fid → s.opt = some o → o.len.toNat ≤ 255 →
    c.len.toNat + 257 < 65536 →
      ∃ t b, exec .encode s = .next t ∧ t.tx = some b
        ∧ ∀ u, u.cs = some c → u.rx = some b → OptLenOk u →
            ∃ v o', exec .decode u = .next v ∧ v.status = 0x0#4 ∧ v.fid = some fid ∧ v.opt = some o'
              ∧ o'.len = o.len ∧ o'.bytes = o.bytes

/-- R104: for one callsign, ENCODE maps different function ids or different optional data to different frames. -/
def Obligations.EncodeInjective : Prop :=
  ∀ (s s' : State) (c o o' b b' : Buf) (fid fid' : Byte) (t t' : State),
    s.cs = some c → s'.cs = some c → s.fidin = some fid → s'.fidin = some fid' → s.opt = some o → s'.opt = some o' →
    o.len.toNat ≤ 255 → o'.len.toNat ≤ 255 → c.len.toNat + 257 < 65536 →
    exec .encode s = .next t → exec .encode s' = .next t' → t.tx = some b → t'.tx = some b' → b.bytes = b'.bytes →
      fid = fid' ∧ o.bytes = o'.bytes

/-! ## Telemetry Decoder -/

/-- R121: DSYSINFO. A payload shorter than SYSINFO_LEN gives STATUS 0x3 and no result; else every `T[i]` is the raw field, little-endian
and sign-extended where the field is signed, times NUM_i; nothing else changes. R82: the offsets and SYSINFO_LEN follow from the
widths. The two's complement of a signed field is the spec's general knowledge G6 (log 14). -/
def Obligations.SysinfoResult : Prop :=
  (∀ l : Config.Layout, fieldOffset l 0 = 0
    ∧ (∀ i : Fin 10, fieldOffset l i.succ = fieldOffset l i.castSucc + (l.get i.castSucc).width)
    ∧ sysinfoLen l = fieldOffset l 10 + (l.get 10).width)
  ∧ ∀ (s : State) (o : Buf), s.opt = some o → o.len.toNat ≤ 255 →
    (o.len.toNat < sysinfoLen s.params.layout →
      exec .dsysinfo s = .next { s with telemetry := none, status := 0x3#4 })
    ∧ (sysinfoLen s.params.layout ≤ o.len.toNat →
      ∃ t : SysInfo Word32, exec .dsysinfo s = .next { s with telemetry := some t, status := 0x0#4 }
        ∧ ∀ i : Fin 11, t.get i = BitVec.ofInt 32
            ((if (s.params.layout.get i).signed
              then sext (8 * (s.params.layout.get i).width)
                (memRead o.mem (fieldOffset s.params.layout i) (s.params.layout.get i).width)
              else (memRead o.mem (fieldOffset s.params.layout i) (s.params.layout.get i).width : Int))
             * ((s.params.layout.get i).num : Int)))

/-- R82, R134, R122: under a legal layout no result wraps: the register read as a signed integer is the exact product. -/
def Obligations.SysinfoExact : Prop :=
  ∀ (s t : State) (o : Buf) (r : SysInfo Word32), layoutLegal s.params.layout = true → s.opt = some o →
    exec .dsysinfo s = .next t → t.telemetry = some r →
      ∀ i : Fin 11, (r.get i).toInt = fieldRaw s.params.layout i o.mem * ((s.params.layout.get i).num : Int)

/-- R136: the results are functions of the payload bytes they are read from: `T` of the first SYSINFO_LEN bytes alone, and
`(SNRQ, RSSIH)` is `(OPT[0], OPT[1])`. -/
def Obligations.TelemetryDeterminism : Prop :=
  ∀ (s s' : State) (o o' : Buf), s.opt = some o → s'.opt = some o' → o.len.toNat ≤ 255 → o'.len.toNat ≤ 255 →
    (s.params.layout = s'.params.layout → sysinfoLen s.params.layout ≤ o.len.toNat →
      sysinfoLen s.params.layout ≤ o'.len.toNat → (∀ k, k < sysinfoLen s.params.layout → o.mem.read k = o'.mem.read k) →
        ∃ t t', exec .dsysinfo s = .next t ∧ exec .dsysinfo s' = .next t' ∧ t.telemetry = t'.telemetry ∧ t.tv = true)
    ∧ (o.len.toNat = 2 → ∃ t, exec .dlastpkt s = .next t
        ∧ t.packet = some { snrq := o.mem.read 0, rssih := o.mem.read 1 })

/-- R134: under the default layout of R83 every result is between -327680 and 327680. The layout is the spec's general knowledge
(log 3). -/
def Obligations.DefaultLayoutRanges : Prop :=
  ∀ (s t : State) (r : SysInfo Word32), s.params.layout = Config.defaultLayout → exec .dsysinfo s = .next t →
    t.telemetry = some r → ∀ i : Fin 11, -327680 ≤ (r.get i).toInt ∧ (r.get i).toInt ≤ 327680

/-- R128, R131: DLASTPKT on fewer than two bytes, more than two, and exactly two; nothing else changes. -/
def Obligations.LastpktResult : Prop :=
  ∀ (s : State) (o : Buf), s.opt = some o → o.len.toNat ≤ 255 →
    (o.len.toNat < 2 → exec .dlastpkt s = .next { s with packet := none, status := 0x3#4 })
    ∧ (2 < o.len.toNat → exec .dlastpkt s = .next { s with packet := none, status := 0x4#4 })
    ∧ (o.len.toNat = 2 → exec .dlastpkt s = .next
        { s with packet := some { snrq := o.mem.read 0, rssih := o.mem.read 1 }, status := 0x0#4 })

/-- R132: DREPEAT sets RV and STATUS 0x0 and changes nothing else; the result is OPT itself. -/
def Obligations.RepeatResult : Prop :=
  ∀ (s : State) (o : Buf), s.opt = some o → o.len.toNat ≤ 255 →
    exec .drepeat s = .next { s with rv := true, status := 0x0#4 }

/-- R137: one byte short: DSYSINFO with `N = SYSINFO_LEN - 1` and DLASTPKT with `N = 1` end with STATUS 0x3 and no result. -/
def Obligations.ShortPayloads : Prop :=
  ∀ (s : State) (o : Buf), s.opt = some o → o.len.toNat ≤ 255 →
    (o.len.toNat + 1 = sysinfoLen s.params.layout →
      ∃ t, exec .dsysinfo s = .next t ∧ t.status = 0x3#4 ∧ t.tv = false)
    ∧ (o.len.toNat = 1 → ∃ t, exec .dlastpkt s = .next t ∧ t.status = 0x3#4 ∧ t.pv = false)

/-- R12, R52: a multi-byte quantity is the little-endian sum of its bytes. -/
def Obligations.LittleEndian : Prop :=
  ∀ (m : Memory) (k n : Nat), memRead m k n = ((List.range n).map fun j => (m.read (k + j)).toNat * 256 ^ j).sum

/-- R11: sign extension of an `n`-bit pattern: the value lies in the signed range and is the pattern modulo `2^n`. That signed means
two's complement is the spec's general knowledge G6 (log 14). -/
def Obligations.SignExtension : Prop :=
  ∀ (n v : Nat), 1 ≤ n → v < 2 ^ n →
    -(2 : Int) ^ (n - 1) ≤ sext n v ∧ sext n v < (2 : Int) ^ (n - 1) ∧ sext n v % (2 : Int) ^ n = (v : Int)

/-- R84, R122, R129, R130: the physical values are exact rationals: of a telemetry field `T[i] / DEN_i`, which under a legal layout is
the raw value times `NUM_i / DEN_i`; of SNR and RSSI the quotients with 4 and -2, with their ranges and the source's example. -/
def Obligations.PhysicalValues : Prop :=
  (∀ (s t : State) (o : Buf) (r : SysInfo Word32), layoutLegal s.params.layout = true → s.opt = some o →
      exec .dsysinfo s = .next t → t.telemetry = some r → ∀ i : Fin 11,
        physicalField s.params.layout i (r.get i) * ((s.params.layout.get i).den : Rat) = ((r.get i).toInt : Rat)
        ∧ physicalField s.params.layout i (r.get i)
            = (fieldRaw s.params.layout i o.mem : Rat) * ((s.params.layout.get i).num : Rat) / ((s.params.layout.get i).den : Rat))
    ∧ (∀ b : Byte, 0 ≤ snrDb b ∧ snrDb b ≤ 255 / 4 ∧ 4 * snrDb b = (b.toNat : Rat))
    ∧ (∀ b : Byte, -255 / 2 ≤ rssiDbm b ∧ rssiDbm b ≤ 0 ∧ -2 * rssiDbm b = (b.toNat : Rat))
    ∧ snrDb 0x28#8 = 10 ∧ rssiDbm 0x10#8 = -8

/-! ## Senders and the line collector -/

/-- R175: COLLECT. The collected line is the input up to the first CR or LF, at most 32 bytes; OPTV set, RV cleared, STATUS 0x0,
nothing else changes. The byte values of CR and LF are the spec's general knowledge G5 (log 14). -/
def Obligations.CollectResult : Prop :=
  ∀ (s : State) (line : List Byte), OptLenOk s →
    ∃ (o : Buf) (m : Nat), exec (.collect line) s = .next { s with opt := some o, rv := false, status := 0x0#4 }
      ∧ o.len.toNat = m ∧ o.bytes = line.take m ∧ m ≤ 32 ∧ m ≤ line.length
      ∧ (∀ k b, k < m → (line)[k]? = some b → b ≠ 0x0D#8 ∧ b ≠ 0x0A#8)
      ∧ (m = 32 ∨ m = line.length ∨ (line)[m]? = some 0x0D#8 ∨ (line)[m]? = some 0x0A#8)

/-- R171, R172, R173, R176: the three senders without payload. FIDIN, empty OPT, RV cleared, the frame of the callsign and the
function id in TXBUF, one transmit call, its status in DRVCODE, STATUS 0x0 or 0x6, one notification; nothing else changes. That the
status is the answer State.env lists, where it lists one of the driver's type, is the model's choice (log 4). -/
def Obligations.PlainSenders : Prop :=
  ∀ (s : State) (c : Buf) (i : Instr) (fid : Byte), s.cs = some c → c.len.toNat + 257 < 65536 → OptLenOk s →
    (i, fid) ∈ [(Instr.sendPing, s.params.fidCmdPing), (Instr.sendReqsys, s.params.fidCmdSysinfo),
                (Instr.sendReqpkt, s.params.fidCmdLastpkt)] →
      ∃ b o st e, exec i s = .next { s with
            fidin := some fid, opt := some o, rv := false, tx := some b, drvcode := some st,
            status := if st = s.params.drvOk then 0x0#4 else 0x6#4,
            note := s.note ++ [.txStatus st],
            drvlog := s.drvlog ++ [.transmit b.bytes b.len.toNat st], env := e }
        ∧ o.len.toNat = 0 ∧ b.len.toNat = c.len.toNat + 1 ∧ b.bytes = c.bytes ++ [fid]
        ∧ isStatus s.params st = true
        ∧ (∀ a as, s.env.transmit = a :: as → isStatus s.params a = true → st = a ∧ e.transmit = as)

/-- R174, R175, R176: the retransmit sender: COLLECT, the frame of the collected line (format F0 if it is empty, else F1), the
transmit step. The terminators are the spec's general knowledge G5 (log 14); that the status is the answer State.env lists, where it
lists one of the driver's type, is the model's choice (log 4). -/
def Obligations.RetransmitSender : Prop :=
  ∀ (s : State) (c : Buf) (line : List Byte), s.cs = some c → c.len.toNat + 257 < 65536 → OptLenOk s →
    ∃ b o st e, exec (.sendRetx line) s = .next { s with
          fidin := some s.params.fidCmdRetransmit, opt := some o, rv := false, tx := some b, drvcode := some st,
          status := if st = s.params.drvOk then 0x0#4 else 0x6#4,
          note := s.note ++ [.txStatus st],
          drvlog := s.drvlog ++ [.transmit b.bytes b.len.toNat st], env := e }
      ∧ o.bytes = collectLine line ∧ o.len.toNat = (collectLine line).length
      ∧ b.bytes = c.bytes ++ s.params.fidCmdRetransmit ::
          (if collectLine line = [] then [] else BitVec.ofNat 8 (collectLine line).length :: collectLine line)
      ∧ isStatus s.params st = true
      ∧ (∀ a as, s.env.transmit = a :: as → isStatus s.params a = true → st = a ∧ e.transmit = as)

/-- R71, R72, R171 to R174: the command frame rows build their frame in TXBUF. That a frame row means the building of its frame
without the transmit step is the model's choice (log 9); the size error is reported whatever CS holds (R103, log 1). -/
def Obligations.CommandFrames : Prop :=
  (∀ (s : State) (c : Buf), s.cs = some c → c.len.toNat + 257 < 65536 →
    (∀ i fid, (i, fid) ∈ [(Instr.frameCmdPing, s.params.fidCmdPing), (Instr.frameCmdSysinfo, s.params.fidCmdSysinfo),
                          (Instr.frameCmdLastpkt, s.params.fidCmdLastpkt)] →
      ∃ b o, exec i s = .next { s with
            fidin := some fid, opt := some o, rv := false, tx := some b, status := 0x0#4 }
        ∧ o.len.toNat = 0 ∧ b.bytes = c.bytes ++ [fid])
    ∧ (∀ o, s.opt = some o → o.len.toNat ≤ 255 →
      ∃ b, exec .frameCmdRetransmit s = .next { s with
            fidin := some s.params.fidCmdRetransmit, tx := some b, status := 0x0#4 }
        ∧ b.bytes = c.bytes ++ s.params.fidCmdRetransmit ::
            (if o.bytes = [] then [] else BitVec.ofNat 8 o.bytes.length :: o.bytes)))
  ∧ ∀ (s : State) (o : Buf), s.opt = some o → 255 < o.len.toNat →
      exec .frameCmdRetransmit s = .next { s with
        fidin := some s.params.fidCmdRetransmit, tx := none, status := 0x5#4 }

/-! ## The receive sequencer -/

/-- R151: IRQ. Masked: nothing; not Idle: nothing; else RXSTATE becomes FramePending. Nothing else changes. -/
def Obligations.IrqEvent : Prop :=
  ∀ s : State,
    (s.im = true → exec .irq s = .next s)
    ∧ (s.im = false → s.rxstate ≠ .idle → exec .irq s = .next s)
    ∧ (s.im = false → s.rxstate = .idle → exec .irq s = .next { s with rxstate := .framePending })

/-- R91: a reserved code changes STATUS to 0xF and nothing else. -/
def Obligations.ReservedCodes : Prop :=
  ∀ s : State, ∀ i ∈ [Instr.reserved0, .reservedC, .reservedD, .reservedE, .reservedF],
    exec i s = .next { s with status := 0xF#4 }

/-- R153, R33: POLL with nothing pending changes nothing: no register, no driver call, no notification. -/
def Obligations.PollNothingPending : Prop :=
  ∀ s : State, OptLenOk s → s.pending = false → exec .poll s = .next s

/-- R162: every POLL that passes P0 emits exactly one notification, makes exactly three driver calls in their order, with statuses of
the driver's type, and ends Idle and unmasked; the callsign and the parameters are as before. -/
def Obligations.PollOneNotificationAlwaysIdle : Prop :=
  ∀ (s : State) (c : Buf), s.rxstate = .framePending → s.cs = some c → OptLenOk s → LengthDrawOk s →
    ∃ t note plen st bytes st', exec .poll s = .next t ∧ t.rxstate = .idle ∧ t.im = false
      ∧ t.note = s.note ++ [note]
      ∧ t.drvlog = s.drvlog ++ [.getPacketLength plen, .readData plen st bytes, .startReceive st']
      ∧ plen ≤ s.params.rxCap ∧ bytes.length = plen
      ∧ t.cs = s.cs ∧ t.params = s.params ∧ t.fidin = s.fidin ∧ t.tx = s.tx ∧ t.inputs = s.inputs ∧ t.boot = s.boot
      ∧ t.drvcode = some st ∧ isStatus s.params st = true ∧ isStatus s.params st' = true

/-- R154 (U6): a read error inside POLL. STATUS 0x6, DRVCODE the driver's status, one `Error(TransportRx, st)`, every valid flag a frame
sets is 0, DECODE is not run; a packet length above RX_CAP is refused. That a listed status stands as it is where the driver's type has
it is the model's choice (log 4). -/
def Obligations.PollReadError : Prop :=
  ∀ (s : State) (plen : Nat) (lens : List Nat) (st : DrvStatus) (given : List Byte) (reads : List (DrvStatus × List Byte)),
    s.rxstate = .framePending → OptLenOk s → s.env.packetLength = plen :: lens → s.env.readData = (st, given) :: reads →
    given.length = plen → isStatus s.params st = true →
      (s.params.rxCap < plen → exec .poll s = .refused .packetLengthAboveCapacity)
      ∧ (plen ≤ s.params.rxCap → st ≠ s.params.drvOk →
        ∃ st' e, exec .poll s = .next { s with
            fid := none, opt := none, telemetry := none, packet := none, rv := false, rx := none,
            rxstate := .idle, im := false, drvcode := some st, status := 0x6#4,
            note := s.note ++ [.error .transportRx st],
            drvlog := s.drvlog ++ [.getPacketLength plen, .readData plen st given, .startReceive st'], env := e })

/-- R155: a frame that DECODE rejects inside POLL: one Error with DECODE's code, dispatch skipped, the bytes stay in RXBUF.
The packet has fewer than 65536 bytes, so that RXLEN counts it (log 10). -/
def Obligations.PollFrameError : Prop :=
  ∀ (s : State) (c : Buf) (plen : Nat) (lens : List Nat) (bytes : List Byte) (reads : List (DrvStatus × List Byte))
    (err : FrameError),
    s.rxstate = .framePending → s.cs = some c → OptLenOk s → s.env.packetLength = plen :: lens →
    s.env.readData = (s.params.drvOk, bytes) :: reads → bytes.length = plen → plen ≤ s.params.rxCap →
    plen < 65536 → decodeFrame c.bytes bytes = .error err →
      ∃ r st' e, exec .poll s = .next { s with
            fid := none, opt := none, telemetry := none, packet := none, rv := false, rx := some r,
            rxstate := .idle, im := false, drvcode := some s.params.drvOk,
            status := (match err with | .truncated => 0x1#4 | .notAddressed => 0x2#4),
            note := s.note ++ [match err with
              | .truncated => .error .frameTruncated 1
              | .notAddressed => .error .frameNotAddressed 2],
            drvlog := s.drvlog ++ [.getPacketLength plen, .readData plen s.params.drvOk bytes, .startReceive st'], env := e }
        ∧ r.bytes = bytes

/-- R152, R156: a frame that DECODE accepts inside POLL: the frame instruction of its function id runs on the state DECODE leaves, and
then the receiver is re-armed and the state is Idle and unmasked. The packet has fewer than 65536 bytes, so
that RXLEN counts it (log 10); that a frame row means its dispatch branch is the model's choice (log 9). -/
def Obligations.PollRunsFrameInstruction : Prop :=
  ∀ (s : State) (c : Buf) (plen : Nat) (lens : List Nat) (bytes d : List Byte) (reads : List (DrvStatus × List Byte))
    (fid : Byte),
    s.rxstate = .framePending → s.cs = some c → OptLenOk s → s.env.packetLength = plen :: lens →
    s.env.readData = (s.params.drvOk, bytes) :: reads → bytes.length = plen → plen ≤ s.params.rxCap →
    plen < 65536 → decodeFrame c.bytes bytes = .ok (fid, d) →
      ∃ (r o : Buf) (u : State) (st' : DrvStatus) (e e' : Env),
        exec (decodeInbound s.params fid)
            { s with
              telemetry := none, packet := none, rv := false, rx := some r, fid := some fid, opt := some o,
              rxstate := .processing, im := true, drvcode := some s.params.drvOk, status := 0x0#4,
              drvlog := s.drvlog ++ [.getPacketLength plen, .readData plen s.params.drvOk bytes], env := e }
          = .next u
        ∧ exec .poll s = .next { u with
            rxstate := .idle, im := false, drvlog := u.drvlog ++ [.startReceive st'], env := e' }
        ∧ r.bytes = bytes ∧ o.bytes = d ∧ o.len.toNat ≤ 255

/-- R156, the pong branch: one `Ack`, STATUS as DECODE left it, the optional data not examined. That the frame row means the branch is
the model's choice (log 9). -/
def Obligations.PongBranch : Prop :=
  ∀ s : State, exec .frameRespPong s = .next { s with note := s.note ++ [.ack] }

/-- R157: the system-info branch: DSYSINFO, then `Telemetry` of the eleven results or `Error(PayloadTooShort, 0x3)`. That the frame
row means POLL's branch is the model's choice (log 9). -/
def Obligations.SysinfoBranch : Prop :=
  ∀ (s : State) (o : Buf), s.opt = some o → o.len.toNat ≤ 255 →
    (o.len.toNat < sysinfoLen s.params.layout →
      exec .frameRespSysinfo s = .next { s with
        telemetry := none, status := 0x3#4, note := s.note ++ [.error .payloadTooShort 3] })
    ∧ (sysinfoLen s.params.layout ≤ o.len.toNat →
      ∃ t, exec .dsysinfo s = .next { s with telemetry := some t, status := 0x0#4 }
        ∧ exec .frameRespSysinfo s = .next { s with
            telemetry := some t, status := 0x0#4, note := s.note ++ [.telemetry t] })

/-- R158: the last-packet-info branch: DLASTPKT, then `PacketInfo` or one `Error` with the code. That the frame
row means POLL's branch is the model's choice (log 9). -/
def Obligations.LastpktBranch : Prop :=
  ∀ (s : State) (o : Buf), s.opt = some o → o.len.toNat ≤ 255 →
    (o.len.toNat < 2 → exec .frameRespLastpkt s = .next { s with
      packet := none, status := 0x3#4, note := s.note ++ [.error .payloadTooShort 3] })
    ∧ (2 < o.len.toNat → exec .frameRespLastpkt s = .next { s with
      packet := none, status := 0x4#4, note := s.note ++ [.error .payloadTooLong 4] })
    ∧ (o.len.toNat = 2 → exec .frameRespLastpkt s = .next { s with
      packet := some { snrq := o.mem.read 0, rssih := o.mem.read 1 }, status := 0x0#4,
      note := s.note ++ [.packetInfo (o.mem.read 0) (o.mem.read 1)] })

/-- R159: the repeated-message branch: DREPEAT, then the optional-data slice as relayed text, STATUS 0x0. That the frame
row means POLL's branch is the model's choice (log 9). -/
def Obligations.RepeatedBranch : Prop :=
  ∀ (s : State) (o : Buf), s.opt = some o → o.len.toNat ≤ 255 →
    exec .frameRespRepeated s = .next { s with
      rv := true, status := 0x0#4, note := s.note ++ [.relayedText o.bytes] }

/-- R161: the unrecognized branch: STATUS 0x7 and the raw byte; FID, OPT and OPTLEN stay valid. That the frame
row means POLL's branch is the model's choice (log 9). -/
def Obligations.UnrecognizedBranch : Prop :=
  ∀ (s : State) (fid : Byte),
    exec (.frameUnrecognized fid) s = .next { s with status := 0x7#4, note := s.note ++ [.unrecognized fid] }

/-- R163: race freedom. However many IRQ events fall into the gaps between POLL's micro-steps, the state after POLL is the same, but
for the environment's own record. -/
def Obligations.RaceFreedom : Prop :=
  ∀ (s t : State) (edges : List Nat), s.rxstate = .framePending → exec .poll s = .next t →
    ∃ t', exec .poll { s with env := { s.env with edges := edges } } = .next t' ∧ sameButEnv t t'

/-! ## The whole machine -/

/-- R41: the invariant holds at reset. -/
def Obligations.InvariantAtReset : Prop := Inv State.reset

/-- R41: every step keeps the invariant, from every state that meets it. That DRV_OK counts as a status of the driver's type is log 5;
what the invariant says of RXBUF where RX_CAP is 65536 or more is log 10. -/
def Obligations.StepKeepsInvariant : Prop :=
  ∀ s t : State, Inv s → step s = .next t → Inv t

/-- R150: seen at operation boundaries, RXSTATE moves only from Idle to FramePending, by an edge, and from FramePending to Idle, by
POLL; a process restart apart (R215). -/
def Obligations.RxstateTransitions : Prop :=
  ∀ (s t : State) (e : Event) (rest : List Event), Inv s → s.inputs = e :: rest → (∀ p, e ≠ .restart p) → step s = .next t →
    t.rxstate = s.rxstate
    ∨ (s.rxstate = .idle ∧ t.rxstate = .framePending ∧ e = .edge)
    ∨ (s.rxstate = .framePending ∧ t.rxstate = .idle ∧ ∃ line, e = .request .mainLoop 0x6#4 line)

/-- R43, R44: the two histories are append-only: no step but a process restart takes an element away or changes one. -/
def Obligations.HistoriesGrow : Prop :=
  ∀ s t : State, (∀ p rest, s.inputs ≠ .restart p :: rest) → step s = .next t →
    s.note <+: t.note ∧ s.drvlog <+: t.drvlog

/-- R22, R62: after boot the callsign, its length and the parameters never change, but by a process restart. -/
def Obligations.ConfigurationImmutable : Prop :=
  ∀ s t : State, s.boot = .ready → (∀ p rest, s.inputs ≠ .restart p :: rest) → step s = .next t →
    t.cs = s.cs ∧ t.params = s.params ∧ t.boot = .ready

/-- R34, R100, R120: the codec and telemetry operations and COLLECT touch neither the sequencer, the driver nor the histories; no
register but those of their rows of R34 changes, and every byte of every buffer they do not write reads as before. -/
def Obligations.PureOperationsFrame : Prop :=
  ∀ (i : Instr) (s t : State), isPure i = true → exec i s = .next t →
    t.rxstate = s.rxstate ∧ t.im = s.im ∧ t.drvcode = s.drvcode ∧ t.note = s.note ∧ t.drvlog = s.drvlog ∧ t.fidin = s.fidin
    ∧ t.cs = s.cs ∧ t.rx = s.rx ∧ t.params = s.params ∧ t.boot = s.boot ∧ t.inputs = s.inputs ∧ t.env = s.env
    ∧ (∀ k, byteAt t.cs k = byteAt s.cs k) ∧ (∀ k, byteAt t.rx k = byteAt s.rx k)
    ∧ (i ≠ .encode → t.tx = s.tx ∧ ∀ k, byteAt t.tx k = byteAt s.tx k)
    ∧ (i ≠ .decode → (∀ line, i ≠ .collect line) → t.opt = s.opt ∧ ∀ k, byteAt t.opt k = byteAt s.opt k)
    ∧ (i ≠ .decode → t.fid = s.fid) ∧ (i ≠ .dsysinfo → t.telemetry = s.telemetry) ∧ (i ≠ .dlastpkt → t.packet = s.packet)
    ∧ (i = .encode ∨ i = .dsysinfo ∨ i = .dlastpkt → t.rv = s.rv)

/-- R29: STATUS takes the codes 0x0 to 0x7 and 0xF only: no operation and no event writes 0x8 to 0xE. -/
def Obligations.StatusCodesClosed : Prop :=
  ∀ (i : Instr) (s t : State), isStatusCode s.status → exec i s = .next t → isStatusCode t.status

/-- R34, R43, R44, R170, R206: which instructions reach which collaborator: only POLL makes receive calls, only POLL and the senders
change DRVLOG; only those and the response rows notify, a response row exactly once; the senders leave RXSTATE, IM, RXBUF, FID, T,
SNRQ, RSSIH as they are. That a response row is an instruction of its own is the model's choice (log 9). -/
def Obligations.CollaboratorCalls : Prop :=
  ∀ (i : Instr) (s t : State), exec i s = .next t →
    (i ≠ .poll → i ≠ .sendPing → i ≠ .sendReqsys → i ≠ .sendReqpkt → (∀ line, i ≠ .sendRetx line) →
      t.drvlog = s.drvlog ∧ t.drvcode = s.drvcode ∧ t.env = s.env
      ∧ (i.kind ≠ .inbound → t.note = s.note) ∧ (i.kind = .inbound → ∃ n, t.note = s.note ++ [n]))
    ∧ (i = .sendPing ∨ i = .sendReqsys ∨ i = .sendReqpkt ∨ (∃ line, i = .sendRetx line) →
      t.rxstate = s.rxstate ∧ t.im = s.im ∧ t.rx = s.rx ∧ t.fid = s.fid ∧ t.telemetry = s.telemetry ∧ t.packet = s.packet
      ∧ ∃ bytes n st, t.drvlog = s.drvlog ++ [.transmit bytes n st] ∧ t.note = s.note ++ [.txStatus st])

/-- R208: the presentation form of each of the seven notifications. For `Unrecognized` R208 allows two forms and leaves the choice to
the presentation layer: that it is the status line carrying the byte is the model's choice (log 13). -/
def Obligations.PresentationForms : Prop :=
  ∀ p : Config.Params,
    formOf p .ack = .statusLine .acknowledged
    ∧ (∀ t, formOf p (.telemetry t) = .telemetry t)
    ∧ (∀ snrq rssih : Byte, formOf p (.packetInfo snrq rssih) =
        .packetInfo ((snrq.toNat : Rat) / 4) ((rssih.toNat : Rat) / (-2)))
    ∧ (∀ bytes, formOf p (.relayedText bytes) = .relayedText bytes)
    ∧ (∀ fid : Byte, formOf p (.unrecognized fid) = .statusLine (.unrecognizedId fid))
    ∧ (∀ kind code, formOf p (.error kind code) = .error (.reported kind) code)
    ∧ (formOf p (.txStatus p.drvOk) = .statusLine .transmitted)
    ∧ (∀ code, code ≠ p.drvOk → formOf p (.txStatus code) = .error .transport code)

/-- R155, C2: the silent reading of frame errors is the sequence NOTE with exactly the notifications of the two frame error kinds taken
out, the others in their order and as often as they stand there. -/
def Obligations.SilentReading : Prop :=
  silentNotes [] = []
    ∧ ∀ (n : Note) (notes : List Note), (silentNotes (n :: notes)).Sublist (n :: notes)
      ∧ ((∃ code, n = .error .frameTruncated code ∨ n = .error .frameNotAddressed code) →
          silentNotes (n :: notes) = silentNotes notes)
      ∧ ((∀ code, n ≠ .error .frameTruncated code ∧ n ≠ .error .frameNotAddressed code) →
          silentNotes (n :: notes) = n :: silentNotes notes)
end

