-- ==== Sys2Proof/Laws/Memory.lean ====
section
/-! SUPPORT. Laws of the buffers: every operation keeps the canonical form, a read after a write gives what was written and nothing
else changes, and a buffer made of a byte sequence holds exactly that sequence. -/

namespace Sys2Proof.Machine

theorem Memory.wfFrom_mono {lo lo' : Nat} (h : lo' ≤ lo) :
    ∀ {m : Memory}, Memory.wfFrom lo m = true → Memory.wfFrom lo' m = true
  | [], _ => rfl
  | (a, b) :: m, hm => by
    simp only [Memory.wfFrom, Bool.and_eq_true, decide_eq_true_eq] at hm ⊢
    exact ⟨⟨by omega, hm.1.2⟩, hm.2⟩

theorem Memory.write_wfFrom {lo k : Nat} (v : Byte) (hk : lo ≤ k) :
    ∀ {m : Memory}, Memory.wfFrom lo m = true → Memory.wfFrom lo (Memory.write m k v) = true
  | [], _ => by
    rw [Memory.write]
    split <;> simp_all [Memory.wfFrom]
  | (a, b) :: m, hm => by
    have hm' := hm
    simp only [Memory.wfFrom, Bool.and_eq_true, decide_eq_true_eq] at hm'
    obtain ⟨⟨hlo, hb⟩, hrest⟩ := hm'
    rw [Memory.write]
    split
    · split
      · exact hm
      · simp_all [Memory.wfFrom]
    · split
      · split
        · exact Memory.wfFrom_mono (by omega) hrest
        · simp_all [Memory.wfFrom]
      · simp only [Memory.wfFrom, Bool.and_eq_true, decide_eq_true_eq]
        exact ⟨⟨hlo, hb⟩, Memory.write_wfFrom v (by omega) hrest⟩

/-- A write keeps the canonical form. -/
theorem Memory.write_wf {m : Memory} (k : Nat) (v : Byte) (h : m.wf = true) : (m.write k v).wf = true :=
  Memory.write_wfFrom v (Nat.zero_le k) h

/-- Writing a byte sequence keeps the canonical form. -/
theorem Memory.writeBytes_wf :
    ∀ (vs : List Byte) {m : Memory} (k : Nat), m.wf = true → (m.writeBytes k vs).wf = true
  | [], _, _, h => h
  | v :: vs, _, k, h => Memory.writeBytes_wf vs (k + 1) (Memory.write_wf k v h)

theorem Memory.read_eq_zero_of_wfFrom {k : Nat} :
    ∀ {lo : Nat} {m : Memory}, Memory.wfFrom lo m = true → k < lo → Memory.read m k = 0#8
  | _, [], _, _ => rfl
  | lo, (a, b) :: m, hm, hk => by
    simp only [Memory.wfFrom, Bool.and_eq_true, decide_eq_true_eq] at hm
    have hne : a ≠ k := by omega
    simpa [Memory.read, hne] using Memory.read_eq_zero_of_wfFrom hm.2 (by omega)

/-- A read after a write to the same offset gives the byte written. -/
theorem Memory.read_write_self (k : Nat) (v : Byte) :
    ∀ {lo : Nat} {m : Memory}, Memory.wfFrom lo m = true → Memory.read (Memory.write m k v) k = v
  | _, [], _ => by
    rw [Memory.write]
    split <;> simp_all [Memory.read]
  | lo, (a, b) :: m, hm => by
    simp only [Memory.wfFrom, Bool.and_eq_true, decide_eq_true_eq] at hm
    rw [Memory.write]
    split
    · have hz : Memory.read m k = 0#8 := Memory.read_eq_zero_of_wfFrom hm.2 (by omega)
      have hne : a ≠ k := by omega
      split <;> simp_all [Memory.read]
    · split
      · have hz : Memory.read m k = 0#8 := Memory.read_eq_zero_of_wfFrom hm.2 (by omega)
        split <;> simp_all [Memory.read]
      · have hne : a ≠ k := by omega
        simpa [Memory.read, hne] using Memory.read_write_self k v hm.2

/-- A write leaves every other offset alone. -/
theorem Memory.read_write_of_ne {k j : Nat} (v : Byte) (h : j ≠ k) :
    ∀ (m : Memory), Memory.read (Memory.write m k v) j = Memory.read m j
  | [] => by
    rw [Memory.write]
    split <;> simp [Memory.read, h.symm]
  | (a, b) :: m => by
    have hkj : k ≠ j := h.symm
    rw [Memory.write]
    split
    · split <;> simp [Memory.read, hkj]
    · split
      · subst k
        split <;> simp [Memory.read, hkj]
      · simp [Memory.read, Memory.read_write_of_ne v h m]

theorem Memory.read_writeBytes_of_lt {j : Nat} :
    ∀ (vs : List Byte) (m : Memory) (k : Nat), j < k → Memory.read (m.writeBytes k vs) j = Memory.read m j
  | [], _, _, _ => rfl
  | v :: vs, m, k, h => by
    rw [Memory.writeBytes, Memory.read_writeBytes_of_lt vs _ _ (by omega), Memory.read_write_of_ne v (by omega)]

@[simp] theorem Memory.length_readBytes (m : Memory) : ∀ (k n : Nat), (m.readBytes k n).length = n
  | _, 0 => rfl
  | k, n + 1 => by simp [Memory.readBytes, Memory.length_readBytes m (k + 1) n]

/-- Reading back what was written gives the sequence written. -/
theorem Memory.readBytes_writeBytes :
    ∀ (vs : List Byte) {m : Memory} (k : Nat), m.wf = true → (m.writeBytes k vs).readBytes k vs.length = vs
  | [], _, _, _ => rfl
  | v :: vs, m, k, h => by
    have hw := Memory.write_wf k v h
    rw [List.length_cons, Memory.readBytes, Memory.writeBytes, Memory.readBytes_writeBytes vs (k + 1) hw,
      Memory.read_writeBytes_of_lt vs _ _ (Nat.lt_succ_self k), Memory.read_write_self k v h]

theorem Memory.getElem?_readBytes (m : Memory) :
    ∀ (k n j : Nat), j < n → (m.readBytes k n)[j]? = some (Memory.read m (k + j))
  | _, 0, _, h => absurd h (Nat.not_lt_zero _)
  | k, n + 1, 0, _ => by simp [Memory.readBytes]
  | k, n + 1, j + 1, h => by
    simpa [Memory.readBytes, Nat.add_assoc, Nat.add_comm 1 j] using
      Memory.getElem?_readBytes m (k + 1) n j (by omega)

theorem Memory.below_cons {n : Nat} {c : Host.Cell} {m : Memory} :
    Memory.below n (c :: m) = true ↔ c.1 < n ∧ Memory.below n m = true := by
  simp [Memory.below]

theorem Memory.write_below {n k : Nat} (v : Byte) (hk : k < n) :
    ∀ {m : Memory}, Memory.below n m = true → Memory.below n (Memory.write m k v) = true
  | [], _ => by
    rw [Memory.write]
    split <;> simp [Memory.below, hk]
  | (a, b) :: m, h => by
    have h' := Memory.below_cons.1 h
    rw [Memory.write]
    split
    · split
      · exact h
      · exact Memory.below_cons.2 ⟨hk, h⟩
    · split
      · split
        · exact h'.2
        · exact Memory.below_cons.2 ⟨hk, h'.2⟩
      · exact Memory.below_cons.2 ⟨h'.1, Memory.write_below v hk h'.2⟩

theorem Memory.writeBytes_below {n : Nat} :
    ∀ (vs : List Byte) {m : Memory} (k : Nat), k + vs.length ≤ n → Memory.below n m = true →
      Memory.below n (m.writeBytes k vs) = true
  | [], _, _, _, h => h
  | v :: vs, _, k, hn, h => by
    rw [List.length_cons] at hn
    exact Memory.writeBytes_below vs (k + 1) (by omega) (Memory.write_below v (by omega) h)

@[simp] theorem Buf.length_bytes (b : Buf) : b.bytes.length = b.len.toNat := by simp [Buf.bytes]

theorem Buf.getElem?_bytes (b : Buf) {j : Nat} (h : j < b.len.toNat) : b.bytes[j]? = some (b.mem.read j) := by
  simpa [Buf.bytes] using Memory.getElem?_readBytes b.mem 0 b.len.toNat j h

/-- The length register of a buffer made of a byte sequence that fits 16 bits. -/
theorem Buf.toNat_len_ofBytes {bs : List Byte} (h : bs.length < 2 ^ 16) : (Buf.ofBytes bs).len.toNat = bs.length := by
  simpa [Buf.ofBytes, BitVec.toNat_ofNat] using Nat.mod_eq_of_lt h

/-- A buffer made of a byte sequence holds that sequence. -/
theorem Buf.bytes_ofBytes {bs : List Byte} (h : bs.length < 2 ^ 16) : (Buf.ofBytes bs).bytes = bs := by
  rw [Buf.bytes, Buf.toNat_len_ofBytes h]
  exact Memory.readBytes_writeBytes bs 0 rfl

/-- A buffer made of a byte sequence is in canonical form. -/
theorem Buf.wf_ofBytes {bs : List Byte} (h : bs.length < 2 ^ 16) : (Buf.ofBytes bs).wf = true := by
  have h1 : Memory.wf (Buf.ofBytes bs).mem = true := Memory.writeBytes_wf bs 0 rfl
  have h2 : Memory.below (Buf.ofBytes bs).len.toNat (Buf.ofBytes bs).mem = true := by
    rw [Buf.toNat_len_ofBytes h]
    exact Memory.writeBytes_below bs 0 (by omega) rfl
  simp [Buf.wf, h1, h2]

/-- A byte of a buffer made of a byte sequence. -/
theorem Buf.read_ofBytes {bs : List Byte} (h : bs.length < 2 ^ 16) {j : Nat} (hj : j < bs.length) :
    (Buf.ofBytes bs).mem.read j = bs[j] := by
  have h1 := Buf.getElem?_bytes (Buf.ofBytes bs) (j := j) (by rwa [Buf.toNat_len_ofBytes h])
  rw [Buf.bytes_ofBytes h, List.getElem?_eq_getElem hj] at h1
  exact (Option.some.inj h1).symm

/-- RXBUF loaded with a packet that RXLEN counts holds exactly the packet. -/
theorem Buf.received_eq {k : Nat} {bs : List Byte} (h : bs.length < 2 ^ 16) : Buf.received k bs = Buf.ofBytes bs := if_pos h

/-- RXBUF loaded with any packet is in canonical form, within its capacity, and RXLEN is at most the capacity. -/
theorem Buf.received_mem {k n : Nat} {bs : List Byte} (h : bs.length ≤ n) :
    (Buf.received k bs).mem.wf = true ∧ Memory.below n (Buf.received k bs).mem = true
      ∧ (Buf.received k bs).len.toNat ≤ n := by
  have hm : (Buf.received k bs).mem = Memory.writeBytes [] 0 bs := by unfold Buf.received; split <;> rfl
  refine ⟨hm ▸ Memory.writeBytes_wf bs 0 rfl, hm ▸ Memory.writeBytes_below bs 0 (by omega) rfl, ?_⟩
  unfold Buf.received
  split
  · rw [Buf.toNat_len_ofBytes ‹_›]
    exact h
  · exact Nat.le_trans (Nat.le_of_lt (BitVec.isLt _)) (Nat.le_trans (Nat.not_lt.1 ‹_›) h)

/-- An unsigned little-endian value of `n` bytes is below `256 ^ n` (R12). -/
theorem memRead_lt (m : Memory) : ∀ (k n : Nat), memRead m k n < 256 ^ n
  | _, 0 => by simp [memRead]
  | k, n + 1 => by
    have h1 := memRead_lt m (k + 1) n
    have h2 := (m.read k).isLt
    rw [memRead, Nat.pow_succ]
    omega

/-- A little-endian value depends on its own bytes alone (R12). -/
theorem memRead_congr {m m' : Memory} :
    ∀ (k n : Nat), (∀ j, k ≤ j → j < k + n → m.read j = m'.read j) → memRead m k n = memRead m' k n
  | _, 0, _ => rfl
  | k, n + 1, h => by
    rw [memRead, memRead, h k (Nat.le_refl k) (by omega),
      memRead_congr (k + 1) n fun j h1 h2 => h j (by omega) (by omega)]

end Sys2Proof.Machine
end

