-- ==== Sys2Proof/Laws/State.lean ====
section
/-! SUPPORT. One lemma per field of State per named update, each true by unfolding, so that no later proof unfolds an update. -/

namespace Sys2Proof.Machine

@[simp] theorem emit_params (n : Note) (s : State) : (emit n s).params = s.params := rfl
@[simp] theorem emit_boot (n : Note) (s : State) : (emit n s).boot = s.boot := rfl
@[simp] theorem emit_cs (n : Note) (s : State) : (emit n s).cs = s.cs := rfl
@[simp] theorem emit_fidin (n : Note) (s : State) : (emit n s).fidin = s.fidin := rfl
@[simp] theorem emit_opt (n : Note) (s : State) : (emit n s).opt = s.opt := rfl
@[simp] theorem emit_tx (n : Note) (s : State) : (emit n s).tx = s.tx := rfl
@[simp] theorem emit_rx (n : Note) (s : State) : (emit n s).rx = s.rx := rfl
@[simp] theorem emit_fid (n : Note) (s : State) : (emit n s).fid = s.fid := rfl
@[simp] theorem emit_telemetry (n : Note) (s : State) : (emit n s).telemetry = s.telemetry := rfl
@[simp] theorem emit_packet (n : Note) (s : State) : (emit n s).packet = s.packet := rfl
@[simp] theorem emit_rv (n : Note) (s : State) : (emit n s).rv = s.rv := rfl
@[simp] theorem emit_status (n : Note) (s : State) : (emit n s).status = s.status := rfl
@[simp] theorem emit_drvcode (n : Note) (s : State) : (emit n s).drvcode = s.drvcode := rfl
@[simp] theorem emit_rxstate (n : Note) (s : State) : (emit n s).rxstate = s.rxstate := rfl
@[simp] theorem emit_im (n : Note) (s : State) : (emit n s).im = s.im := rfl
@[simp] theorem emit_note (n : Note) (s : State) : (emit n s).note = s.note ++ [n] := rfl
@[simp] theorem emit_drvlog (n : Note) (s : State) : (emit n s).drvlog = s.drvlog := rfl
@[simp] theorem emit_inputs (n : Note) (s : State) : (emit n s).inputs = s.inputs := rfl
@[simp] theorem emit_env (n : Note) (s : State) : (emit n s).env = s.env := rfl

@[simp] theorem logCall_params (c : DrvCall) (s : State) : (logCall c s).params = s.params := rfl
@[simp] theorem logCall_boot (c : DrvCall) (s : State) : (logCall c s).boot = s.boot := rfl
@[simp] theorem logCall_cs (c : DrvCall) (s : State) : (logCall c s).cs = s.cs := rfl
@[simp] theorem logCall_fidin (c : DrvCall) (s : State) : (logCall c s).fidin = s.fidin := rfl
@[simp] theorem logCall_opt (c : DrvCall) (s : State) : (logCall c s).opt = s.opt := rfl
@[simp] theorem logCall_tx (c : DrvCall) (s : State) : (logCall c s).tx = s.tx := rfl
@[simp] theorem logCall_rx (c : DrvCall) (s : State) : (logCall c s).rx = s.rx := rfl
@[simp] theorem logCall_fid (c : DrvCall) (s : State) : (logCall c s).fid = s.fid := rfl
@[simp] theorem logCall_telemetry (c : DrvCall) (s : State) : (logCall c s).telemetry = s.telemetry := rfl
@[simp] theorem logCall_packet (c : DrvCall) (s : State) : (logCall c s).packet = s.packet := rfl
@[simp] theorem logCall_rv (c : DrvCall) (s : State) : (logCall c s).rv = s.rv := rfl
@[simp] theorem logCall_status (c : DrvCall) (s : State) : (logCall c s).status = s.status := rfl
@[simp] theorem logCall_drvcode (c : DrvCall) (s : State) : (logCall c s).drvcode = s.drvcode := rfl
@[simp] theorem logCall_rxstate (c : DrvCall) (s : State) : (logCall c s).rxstate = s.rxstate := rfl
@[simp] theorem logCall_im (c : DrvCall) (s : State) : (logCall c s).im = s.im := rfl
@[simp] theorem logCall_note (c : DrvCall) (s : State) : (logCall c s).note = s.note := rfl
@[simp] theorem logCall_drvlog (c : DrvCall) (s : State) : (logCall c s).drvlog = s.drvlog ++ [c] := rfl
@[simp] theorem logCall_inputs (c : DrvCall) (s : State) : (logCall c s).inputs = s.inputs := rfl
@[simp] theorem logCall_env (c : DrvCall) (s : State) : (logCall c s).env = s.env := rfl

@[simp] theorem drawTransmit_params (s : State) : (drawTransmit s).2.params = s.params := rfl
@[simp] theorem drawTransmit_boot (s : State) : (drawTransmit s).2.boot = s.boot := rfl
@[simp] theorem drawTransmit_cs (s : State) : (drawTransmit s).2.cs = s.cs := rfl
@[simp] theorem drawTransmit_fidin (s : State) : (drawTransmit s).2.fidin = s.fidin := rfl
@[simp] theorem drawTransmit_opt (s : State) : (drawTransmit s).2.opt = s.opt := rfl
@[simp] theorem drawTransmit_tx (s : State) : (drawTransmit s).2.tx = s.tx := rfl
@[simp] theorem drawTransmit_rx (s : State) : (drawTransmit s).2.rx = s.rx := rfl
@[simp] theorem drawTransmit_fid (s : State) : (drawTransmit s).2.fid = s.fid := rfl
@[simp] theorem drawTransmit_telemetry (s : State) : (drawTransmit s).2.telemetry = s.telemetry := rfl
@[simp] theorem drawTransmit_packet (s : State) : (drawTransmit s).2.packet = s.packet := rfl
@[simp] theorem drawTransmit_rv (s : State) : (drawTransmit s).2.rv = s.rv := rfl
@[simp] theorem drawTransmit_status (s : State) : (drawTransmit s).2.status = s.status := rfl
@[simp] theorem drawTransmit_drvcode (s : State) : (drawTransmit s).2.drvcode = s.drvcode := rfl
@[simp] theorem drawTransmit_rxstate (s : State) : (drawTransmit s).2.rxstate = s.rxstate := rfl
@[simp] theorem drawTransmit_im (s : State) : (drawTransmit s).2.im = s.im := rfl
@[simp] theorem drawTransmit_note (s : State) : (drawTransmit s).2.note = s.note := rfl
@[simp] theorem drawTransmit_drvlog (s : State) : (drawTransmit s).2.drvlog = s.drvlog := rfl
@[simp] theorem drawTransmit_inputs (s : State) : (drawTransmit s).2.inputs = s.inputs := rfl

@[simp] theorem drawStart_params (s : State) : (drawStart s).2.params = s.params := rfl
@[simp] theorem drawStart_boot (s : State) : (drawStart s).2.boot = s.boot := rfl
@[simp] theorem drawStart_cs (s : State) : (drawStart s).2.cs = s.cs := rfl
@[simp] theorem drawStart_fidin (s : State) : (drawStart s).2.fidin = s.fidin := rfl
@[simp] theorem drawStart_opt (s : State) : (drawStart s).2.opt = s.opt := rfl
@[simp] theorem drawStart_tx (s : State) : (drawStart s).2.tx = s.tx := rfl
@[simp] theorem drawStart_rx (s : State) : (drawStart s).2.rx = s.rx := rfl
@[simp] theorem drawStart_fid (s : State) : (drawStart s).2.fid = s.fid := rfl
@[simp] theorem drawStart_telemetry (s : State) : (drawStart s).2.telemetry = s.telemetry := rfl
@[simp] theorem drawStart_packet (s : State) : (drawStart s).2.packet = s.packet := rfl
@[simp] theorem drawStart_rv (s : State) : (drawStart s).2.rv = s.rv := rfl
@[simp] theorem drawStart_status (s : State) : (drawStart s).2.status = s.status := rfl
@[simp] theorem drawStart_drvcode (s : State) : (drawStart s).2.drvcode = s.drvcode := rfl
@[simp] theorem drawStart_rxstate (s : State) : (drawStart s).2.rxstate = s.rxstate := rfl
@[simp] theorem drawStart_im (s : State) : (drawStart s).2.im = s.im := rfl
@[simp] theorem drawStart_note (s : State) : (drawStart s).2.note = s.note := rfl
@[simp] theorem drawStart_drvlog (s : State) : (drawStart s).2.drvlog = s.drvlog := rfl
@[simp] theorem drawStart_inputs (s : State) : (drawStart s).2.inputs = s.inputs := rfl

@[simp] theorem drawPacketLength_params (s : State) : (drawPacketLength s).2.params = s.params := rfl
@[simp] theorem drawPacketLength_boot (s : State) : (drawPacketLength s).2.boot = s.boot := rfl
@[simp] theorem drawPacketLength_cs (s : State) : (drawPacketLength s).2.cs = s.cs := rfl
@[simp] theorem drawPacketLength_fidin (s : State) : (drawPacketLength s).2.fidin = s.fidin := rfl
@[simp] theorem drawPacketLength_opt (s : State) : (drawPacketLength s).2.opt = s.opt := rfl
@[simp] theorem drawPacketLength_tx (s : State) : (drawPacketLength s).2.tx = s.tx := rfl
@[simp] theorem drawPacketLength_rx (s : State) : (drawPacketLength s).2.rx = s.rx := rfl
@[simp] theorem drawPacketLength_fid (s : State) : (drawPacketLength s).2.fid = s.fid := rfl
@[simp] theorem drawPacketLength_telemetry (s : State) : (drawPacketLength s).2.telemetry = s.telemetry := rfl
@[simp] theorem drawPacketLength_packet (s : State) : (drawPacketLength s).2.packet = s.packet := rfl
@[simp] theorem drawPacketLength_rv (s : State) : (drawPacketLength s).2.rv = s.rv := rfl
@[simp] theorem drawPacketLength_status (s : State) : (drawPacketLength s).2.status = s.status := rfl
@[simp] theorem drawPacketLength_drvcode (s : State) : (drawPacketLength s).2.drvcode = s.drvcode := rfl
@[simp] theorem drawPacketLength_rxstate (s : State) : (drawPacketLength s).2.rxstate = s.rxstate := rfl
@[simp] theorem drawPacketLength_im (s : State) : (drawPacketLength s).2.im = s.im := rfl
@[simp] theorem drawPacketLength_note (s : State) : (drawPacketLength s).2.note = s.note := rfl
@[simp] theorem drawPacketLength_drvlog (s : State) : (drawPacketLength s).2.drvlog = s.drvlog := rfl
@[simp] theorem drawPacketLength_inputs (s : State) : (drawPacketLength s).2.inputs = s.inputs := rfl

@[simp] theorem drawReadData_params (n : Nat) (s : State) : (drawReadData n s).2.params = s.params := rfl
@[simp] theorem drawReadData_boot (n : Nat) (s : State) : (drawReadData n s).2.boot = s.boot := rfl
@[simp] theorem drawReadData_cs (n : Nat) (s : State) : (drawReadData n s).2.cs = s.cs := rfl
@[simp] theorem drawReadData_fidin (n : Nat) (s : State) : (drawReadData n s).2.fidin = s.fidin := rfl
@[simp] theorem drawReadData_opt (n : Nat) (s : State) : (drawReadData n s).2.opt = s.opt := rfl
@[simp] theorem drawReadData_tx (n : Nat) (s : State) : (drawReadData n s).2.tx = s.tx := rfl
@[simp] theorem drawReadData_rx (n : Nat) (s : State) : (drawReadData n s).2.rx = s.rx := rfl
@[simp] theorem drawReadData_fid (n : Nat) (s : State) : (drawReadData n s).2.fid = s.fid := rfl
@[simp] theorem drawReadData_telemetry (n : Nat) (s : State) : (drawReadData n s).2.telemetry = s.telemetry := rfl
@[simp] theorem drawReadData_packet (n : Nat) (s : State) : (drawReadData n s).2.packet = s.packet := rfl
@[simp] theorem drawReadData_rv (n : Nat) (s : State) : (drawReadData n s).2.rv = s.rv := rfl
@[simp] theorem drawReadData_status (n : Nat) (s : State) : (drawReadData n s).2.status = s.status := rfl
@[simp] theorem drawReadData_drvcode (n : Nat) (s : State) : (drawReadData n s).2.drvcode = s.drvcode := rfl
@[simp] theorem drawReadData_rxstate (n : Nat) (s : State) : (drawReadData n s).2.rxstate = s.rxstate := rfl
@[simp] theorem drawReadData_im (n : Nat) (s : State) : (drawReadData n s).2.im = s.im := rfl
@[simp] theorem drawReadData_note (n : Nat) (s : State) : (drawReadData n s).2.note = s.note := rfl
@[simp] theorem drawReadData_drvlog (n : Nat) (s : State) : (drawReadData n s).2.drvlog = s.drvlog := rfl
@[simp] theorem drawReadData_inputs (n : Nat) (s : State) : (drawReadData n s).2.inputs = s.inputs := rfl

@[simp] theorem interleave_params (s : State) : (interleave s).params = s.params := rfl
@[simp] theorem interleave_boot (s : State) : (interleave s).boot = s.boot := rfl
@[simp] theorem interleave_cs (s : State) : (interleave s).cs = s.cs := rfl
@[simp] theorem interleave_fidin (s : State) : (interleave s).fidin = s.fidin := rfl
@[simp] theorem interleave_opt (s : State) : (interleave s).opt = s.opt := rfl
@[simp] theorem interleave_tx (s : State) : (interleave s).tx = s.tx := rfl
@[simp] theorem interleave_rx (s : State) : (interleave s).rx = s.rx := rfl
@[simp] theorem interleave_fid (s : State) : (interleave s).fid = s.fid := rfl
@[simp] theorem interleave_telemetry (s : State) : (interleave s).telemetry = s.telemetry := rfl
@[simp] theorem interleave_packet (s : State) : (interleave s).packet = s.packet := rfl
@[simp] theorem interleave_rv (s : State) : (interleave s).rv = s.rv := rfl
@[simp] theorem interleave_status (s : State) : (interleave s).status = s.status := rfl
@[simp] theorem interleave_drvcode (s : State) : (interleave s).drvcode = s.drvcode := rfl
@[simp] theorem interleave_im (s : State) : (interleave s).im = s.im := rfl
@[simp] theorem interleave_note (s : State) : (interleave s).note = s.note := rfl
@[simp] theorem interleave_drvlog (s : State) : (interleave s).drvlog = s.drvlog := rfl
@[simp] theorem interleave_inputs (s : State) : (interleave s).inputs = s.inputs := rfl

@[simp] theorem pollEnter_params (s : State) : (pollEnter s).params = s.params := rfl
@[simp] theorem pollEnter_boot (s : State) : (pollEnter s).boot = s.boot := rfl
@[simp] theorem pollEnter_cs (s : State) : (pollEnter s).cs = s.cs := rfl
@[simp] theorem pollEnter_fidin (s : State) : (pollEnter s).fidin = s.fidin := rfl
@[simp] theorem pollEnter_opt (s : State) : (pollEnter s).opt = none := rfl
@[simp] theorem pollEnter_tx (s : State) : (pollEnter s).tx = s.tx := rfl
@[simp] theorem pollEnter_rx (s : State) : (pollEnter s).rx = none := rfl
@[simp] theorem pollEnter_fid (s : State) : (pollEnter s).fid = none := rfl
@[simp] theorem pollEnter_telemetry (s : State) : (pollEnter s).telemetry = none := rfl
@[simp] theorem pollEnter_packet (s : State) : (pollEnter s).packet = none := rfl
@[simp] theorem pollEnter_rv (s : State) : (pollEnter s).rv = false := rfl
@[simp] theorem pollEnter_status (s : State) : (pollEnter s).status = s.status := rfl
@[simp] theorem pollEnter_drvcode (s : State) : (pollEnter s).drvcode = s.drvcode := rfl
@[simp] theorem pollEnter_rxstate (s : State) : (pollEnter s).rxstate = .processing := rfl
@[simp] theorem pollEnter_im (s : State) : (pollEnter s).im = true := rfl
@[simp] theorem pollEnter_note (s : State) : (pollEnter s).note = s.note := rfl
@[simp] theorem pollEnter_drvlog (s : State) : (pollEnter s).drvlog = s.drvlog := rfl
@[simp] theorem pollEnter_inputs (s : State) : (pollEnter s).inputs = s.inputs := rfl
@[simp] theorem pollEnter_env (s : State) : (pollEnter s).env = s.env := rfl

@[simp] theorem pollExit_params (s : State) : (pollExit s).params = s.params := rfl
@[simp] theorem pollExit_boot (s : State) : (pollExit s).boot = s.boot := rfl
@[simp] theorem pollExit_cs (s : State) : (pollExit s).cs = s.cs := rfl
@[simp] theorem pollExit_fidin (s : State) : (pollExit s).fidin = s.fidin := rfl
@[simp] theorem pollExit_opt (s : State) : (pollExit s).opt = s.opt := rfl
@[simp] theorem pollExit_tx (s : State) : (pollExit s).tx = s.tx := rfl
@[simp] theorem pollExit_rx (s : State) : (pollExit s).rx = s.rx := rfl
@[simp] theorem pollExit_fid (s : State) : (pollExit s).fid = s.fid := rfl
@[simp] theorem pollExit_telemetry (s : State) : (pollExit s).telemetry = s.telemetry := rfl
@[simp] theorem pollExit_packet (s : State) : (pollExit s).packet = s.packet := rfl
@[simp] theorem pollExit_rv (s : State) : (pollExit s).rv = s.rv := rfl
@[simp] theorem pollExit_status (s : State) : (pollExit s).status = s.status := rfl
@[simp] theorem pollExit_drvcode (s : State) : (pollExit s).drvcode = s.drvcode := rfl
@[simp] theorem pollExit_rxstate (s : State) : (pollExit s).rxstate = .idle := rfl
@[simp] theorem pollExit_im (s : State) : (pollExit s).im = false := rfl
@[simp] theorem pollExit_note (s : State) : (pollExit s).note = s.note := rfl
@[simp] theorem pollExit_drvlog (s : State) : (pollExit s).drvlog = s.drvlog := rfl
@[simp] theorem pollExit_inputs (s : State) : (pollExit s).inputs = s.inputs := rfl
@[simp] theorem pollExit_env (s : State) : (pollExit s).env = s.env := rfl

end Sys2Proof.Machine
end

