-- ==== Sys2Proof/Laws/Ops.lean ====
section
/-! SUPPORT. For each shared operation, one lemma that says everything it can answer; later proofs cite these and unfold nothing. -/

namespace Sys2Proof.Machine

/-! ## Sequencing and operand checks -/

@[simp] theorem andThen_next (s : State) (f : State → Result) : andThen (.next s) f = f s := rfl
@[simp] theorem andThen_fault (r : Fault) (f : State → Result) : andThen (.fault r) f = .fault r := rfl
@[simp] theorem andThen_refused (r : Refusal) (f : State → Result) : andThen (.refused r) f = .refused r := rfl

theorem andThen_eq_next {o : Result} {f : State → Result} {t : State} :
    andThen o f = .next t ↔ ∃ s, o = .next s ∧ f s = .next t := by
  cases o <;> simp

theorem finish_eq_next {c : BitVec 4} {s t : State} : finish c s = .next t ↔ t = { s with status := c } := by
  simp [finish, eq_comm]

theorem optTooLong_eq_false {s : State} : optTooLong s = false ↔ OptLenOk s := by
  unfold optTooLong OptLenOk
  cases s.opt <;> simp

theorem guardOptLen_of_ok {s : State} (h : OptLenOk s) (f : State → Result) : guardOptLen s f = f s := by
  simp [guardOptLen, optTooLong_eq_false.2 h]

theorem guardOptLen_eq_next {s t : State} {f : State → Result} :
    guardOptLen s f = .next t ↔ OptLenOk s ∧ f s = .next t := by
  by_cases h : optTooLong s = true
  · have h' : ¬ OptLenOk s := fun h0 => by simp [optTooLong_eq_false.2 h0] at h
    simp [guardOptLen, h, h']
  · have h0 := optTooLong_eq_false.1 (Bool.eq_false_iff.2 h)
    simp [guardOptLen, h, h0]

theorem withOpt_of_some {s : State} {o : Buf} (h : s.opt = some o) (hlen : o.len.toNat ≤ 255) (f : Buf → Result) :
    withOpt s f = f o := by
  simp [withOpt, h, Nat.not_lt.2 hlen]

theorem withOpt_eq_next {s t : State} {f : Buf → Result} :
    withOpt s f = .next t ↔ ∃ o, s.opt = some o ∧ o.len.toNat ≤ 255 ∧ f o = .next t := by
  unfold withOpt
  cases h : s.opt with
  | none => simp
  | some o =>
    by_cases hlen : 255 < o.len.toNat
    · simp [hlen]
    · simp [hlen, Nat.not_lt.1 hlen]

/-! ## Frames -/

theorem length_encodeFrame (cs : List Byte) (fid : Byte) (d : List Byte) :
    (encodeFrame cs fid d).length = frameLen cs.length d.length := by
  cases d with
  | nil => simp [encodeFrame, frameLen]
  | cons b d => simp [encodeFrame, frameLen]; omega

theorem length_encodeFrame_lt {cs : List Byte} (fid : Byte) {d : List Byte} (hd : d.length ≤ 255)
    (hcs : cs.length + 257 < 2 ^ 16) : (encodeFrame cs fid d).length < 2 ^ 16 := by
  rw [length_encodeFrame, frameLen]
  split <;> omega

theorem isFrameLength_encodeFrame {cs : List Byte} (fid : Byte) {d : List Byte} (hd : d.length ≤ 255) :
    isFrameLength cs.length (encodeFrame cs fid d).length := by
  rw [length_encodeFrame, frameLen, isFrameLength]
  split <;> omega

/-- What DECODE accepts carries at most 255 bytes (R108). -/
theorem length_of_decodeFrame {cs rx : List Byte} {fid : Byte} {d : List Byte}
    (h : decodeFrame cs rx = .ok (fid, d)) : d.length ≤ 255 := by
  have hb := (rx.getD (cs.length + 1) 0#8).isLt
  simp only [decodeFrame] at h
  split at h
  · cases h
  · split at h
    · cases h
    · split at h
      · cases h
        simp
      · split at h
        · cases h
        · cases h
          simp only [List.length_take]
          omega

/-- Decoding an encoded frame gives the function id and the data back (R110). -/
theorem decodeFrame_encodeFrame (cs : List Byte) (fid : Byte) {d : List Byte} (hd : d.length ≤ 255) :
    decodeFrame cs (encodeFrame cs fid d) = .ok (fid, d) := by
  cases d with
  | nil => simp [decodeFrame, encodeFrame]
  | cons b d =>
    have hn : (BitVec.ofNat 8 (b :: d).length).toNat = (b :: d).length := by
      rw [BitVec.toNat_ofNat]
      exact Nat.mod_eq_of_lt (by omega)
    have h1 : (encodeFrame cs fid (b :: d)).length = cs.length + 2 + (b :: d).length := by
      simp [encodeFrame]; omega
    have h2 : (encodeFrame cs fid (b :: d)).take cs.length = cs := by simp [encodeFrame]
    have h3 : (encodeFrame cs fid (b :: d)).getD cs.length 0#8 = fid := by simp [encodeFrame]
    have h4 : (encodeFrame cs fid (b :: d)).getD (cs.length + 1) 0#8 = BitVec.ofNat 8 (b :: d).length := by
      simp [encodeFrame, List.getD_eq_getElem?_getD]
    have h5 : (encodeFrame cs fid (b :: d)).drop (cs.length + 2) = b :: d := by
      simp [encodeFrame, List.drop_append]
    have hlen : (b :: d).length = d.length + 1 := rfl
    simp only [decodeFrame, h1, h2, h3, h4, h5, hn]
    rw [if_neg (by omega), if_neg (by simp), if_neg (by omega), if_neg (by omega), List.take_length]

/-! ## Codec operations -/

theorem optTooLong_of_lt {s : State} {o : Buf} (ho : s.opt = some o) (hlen : 255 < o.len.toNat) : optTooLong s = true := by
  simp [optTooLong, ho, hlen]

theorem optTooLong_of_le {s : State} {o : Buf} (ho : s.opt = some o) (hlen : o.len.toNat ≤ 255) : optTooLong s = false := by
  simp [optTooLong, ho, hlen]

theorem encodeOp_of {s : State} {c o : Buf} {fid : Byte} (hc : s.cs = some c) (hf : s.fidin = some fid)
    (ho : s.opt = some o) (hlen : o.len.toNat ≤ 255) :
    encodeOp s = .next { s with tx := some (Buf.ofBytes (encodeFrame c.bytes fid o.bytes)), status := stOk } := by
  simp [encodeOp, optTooLong_of_le ho hlen, hc, hf, ho, finish]

/-- The size error looks at OPTLEN alone (R103). -/
theorem encodeOp_tooLong {s : State} {o : Buf} (ho : s.opt = some o) (hlen : 255 < o.len.toNat) :
    encodeOp s = .next { s with tx := none, status := stOptTooLong } := by
  simp [encodeOp, optTooLong_of_lt ho hlen, finish]

theorem encodeOp_eq_next {s t : State} (h : encodeOp s = .next t) :
    ∃ o, s.opt = some o ∧
      ((255 < o.len.toNat ∧ t = { s with tx := none, status := stOptTooLong })
        ∨ (o.len.toNat ≤ 255 ∧ ∃ c fid, s.cs = some c ∧ s.fidin = some fid ∧
            t = { s with tx := some (Buf.ofBytes (encodeFrame c.bytes fid o.bytes)), status := stOk })) := by
  rcases Option.eq_none_or_eq_some s.opt with ho | ⟨o, ho⟩
  · cases hc : s.cs <;> cases hf : s.fidin <;> simp [encodeOp, optTooLong, ho, hc, hf] at h
  refine ⟨o, ho, ?_⟩
  rcases Nat.lt_or_ge 255 o.len.toNat with hlen | hlen
  · rw [encodeOp_tooLong ho hlen] at h
    cases h
    exact .inl ⟨hlen, rfl⟩
  rcases Option.eq_none_or_eq_some s.cs with hc | ⟨c, hc⟩
  · simp [encodeOp, optTooLong_of_le ho hlen, hc] at h
  rcases Option.eq_none_or_eq_some s.fidin with hf | ⟨fid, hf⟩
  · simp [encodeOp, optTooLong_of_le ho hlen, hc, hf] at h
  rw [encodeOp_of hc hf ho hlen] at h
  cases h
  exact .inr ⟨hlen, c, fid, hc, hf, rfl⟩

theorem decodeOp_ok {s : State} {c r : Buf} {fid : Byte} {d : List Byte} (hc : s.cs = some c) (hr : s.rx = some r)
    (h : decodeFrame c.bytes r.bytes = .ok (fid, d)) :
    decodeOp s = .next { s with fid := some fid, opt := some (Buf.ofBytes d), rv := false, status := stOk } := by
  simp [decodeOp, hc, hr, h, finish]

theorem decodeOp_error {s : State} {c r : Buf} {e : FrameError} (hc : s.cs = some c) (hr : s.rx = some r)
    (h : decodeFrame c.bytes r.bytes = .error e) :
    decodeOp s = .next { s with fid := none, opt := none, rv := false, status := frameErrorCode e } := by
  simp [decodeOp, hc, hr, h, finish]

theorem decodeOp_eq_next {s t : State} (h : decodeOp s = .next t) :
    ∃ c r, s.cs = some c ∧ s.rx = some r ∧
      ((∃ fid d, decodeFrame c.bytes r.bytes = .ok (fid, d) ∧
          t = { s with fid := some fid, opt := some (Buf.ofBytes d), rv := false, status := stOk })
        ∨ (∃ e, decodeFrame c.bytes r.bytes = .error e ∧
          t = { s with fid := none, opt := none, rv := false, status := frameErrorCode e })) := by
  unfold decodeOp at h
  split at h
  · cases h
  · cases h
  · next c r hc hr =>
    refine ⟨c, r, hc, hr, ?_⟩
    split at h
    · next fid d hd => exact .inl ⟨fid, d, hd, finish_eq_next.1 h⟩
    · next e he => exact .inr ⟨e, he, finish_eq_next.1 h⟩

/-! ## Telemetry operations -/

@[simp] theorem SysInfo.get_build {α : Type} (f : Fin 11 → α) : ∀ i : Fin 11, (SysInfo.build f).get i = f i
  | 0 => rfl | 1 => rfl | 2 => rfl | 3 => rfl | 4 => rfl | 5 => rfl | 6 => rfl | 7 => rfl | 8 => rfl | 9 => rfl | 10 => rfl

theorem dsysinfoOp_of {s : State} {o : Buf} (ho : s.opt = some o) (hlen : o.len.toNat ≤ 255) :
    dsysinfoOp s =
      if o.len.toNat < sysinfoLen s.params.layout then .next { s with telemetry := none, status := stTooShort }
      else .next { s with telemetry := some (SysInfo.build (fieldValue s.params.layout o.mem)), status := stOk } := by
  simp [dsysinfoOp, withOpt_of_some ho hlen, finish]

theorem dsysinfoOp_eq_next {s t : State} (h : dsysinfoOp s = .next t) :
    ∃ o, s.opt = some o ∧ o.len.toNat ≤ 255 ∧
      ((o.len.toNat < sysinfoLen s.params.layout ∧ t = { s with telemetry := none, status := stTooShort })
        ∨ (sysinfoLen s.params.layout ≤ o.len.toNat ∧
            t = { s with telemetry := some (SysInfo.build (fieldValue s.params.layout o.mem)), status := stOk })) := by
  obtain ⟨o, ho, hlen, -⟩ := withOpt_eq_next.1 h
  refine ⟨o, ho, hlen, ?_⟩
  rw [dsysinfoOp_of ho hlen] at h
  split at h <;> cases h
  · exact .inl ⟨‹_›, rfl⟩
  · exact .inr ⟨Nat.not_lt.1 ‹_›, rfl⟩

theorem dlastpktOp_of {s : State} {o : Buf} (ho : s.opt = some o) (hlen : o.len.toNat ≤ 255) :
    dlastpktOp s =
      if o.len.toNat < 2 then .next { s with packet := none, status := stTooShort }
      else if 2 < o.len.toNat then .next { s with packet := none, status := stTooLong }
      else .next { s with packet := some { snrq := o.mem.read 0, rssih := o.mem.read 1 }, status := stOk } := by
  simp [dlastpktOp, withOpt_of_some ho hlen, finish]

theorem dlastpktOp_eq_next {s t : State} (h : dlastpktOp s = .next t) :
    ∃ o, s.opt = some o ∧ o.len.toNat ≤ 255 ∧
      ((o.len.toNat < 2 ∧ t = { s with packet := none, status := stTooShort })
        ∨ (2 < o.len.toNat ∧ t = { s with packet := none, status := stTooLong })
        ∨ (o.len.toNat = 2 ∧
            t = { s with packet := some { snrq := o.mem.read 0, rssih := o.mem.read 1 }, status := stOk })) := by
  obtain ⟨o, ho, hlen, -⟩ := withOpt_eq_next.1 h
  refine ⟨o, ho, hlen, ?_⟩
  rw [dlastpktOp_of ho hlen] at h
  split at h
  · cases h
    exact .inl ⟨‹_›, rfl⟩
  · split at h <;> cases h
    · exact .inr (.inl ⟨‹_›, rfl⟩)
    · exact .inr (.inr ⟨by omega, rfl⟩)

theorem drepeatOp_eq_next {s t : State} (h : drepeatOp s = .next t) :
    ∃ o, s.opt = some o ∧ o.len.toNat ≤ 255 ∧ t = { s with rv := true, status := stOk } := by
  obtain ⟨o, ho, hlen, hf⟩ := withOpt_eq_next.1 h
  exact ⟨o, ho, hlen, finish_eq_next.1 hf⟩

/-! ## Senders -/

/-- The cap of the line collector (R175). -/
theorem length_collectLine_le (line : List Byte) : (collectLine line).length ≤ 32 := by
  simp only [collectLine, List.length_take, Config.lineMax]
  omega

/-- The state the transmit step leaves, with the frame `tx` and the drawn status `st` (R176). -/
def transmitted (s : State) (tx : Buf) (st : DrvStatus) (e : Env) : State :=
  { s with
    drvcode := some st
    status := if st = s.params.drvOk then stOk else stTransport
    note := s.note ++ [.txStatus st]
    drvlog := s.drvlog ++ [.transmit tx.bytes tx.len.toNat st]
    env := e }

theorem transmitStep_of {s : State} {tx : Buf} (h : s.tx = some tx) :
    transmitStep s = .next (transmitted s tx (drawTransmit s).1 (drawTransmit s).2.env) := by
  simp [transmitStep, h, transmitted, emit, logCall, drawTransmit]

theorem transmitStep_eq_next {s t : State} (h : transmitStep s = .next t) :
    ∃ tx, s.tx = some tx ∧ t = transmitted s tx (drawTransmit s).1 (drawTransmit s).2.env := by
  cases htx : s.tx with
  | none => simp [transmitStep, htx] at h
  | some tx =>
    rw [transmitStep_of htx] at h
    cases h
    exact ⟨tx, rfl, rfl⟩

@[simp] theorem bytes_ofBytes_nil : (Buf.ofBytes []).bytes = [] := rfl
@[simp] theorem toNat_len_ofBytes_nil : (Buf.ofBytes []).len.toNat = 0 := rfl

/-- The state a command frame without data leaves (R171). -/
theorem buildCommand_of {s : State} {c : Buf} (fid : Byte) (hc : s.cs = some c) :
    buildCommand fid s = .next { s with
      fidin := some fid, opt := some (Buf.ofBytes []), rv := false, tx := some (Buf.ofBytes (c.bytes ++ [fid])),
      status := stOk } := by
  have h := encodeOp_of (s := { s with fidin := some fid, opt := some (Buf.ofBytes []), rv := false })
    (c := c) (o := Buf.ofBytes []) (fid := fid) hc rfl rfl (by simp)
  simpa [buildCommand, encodeFrame] using h

theorem buildCommand_eq_next {s t : State} {fid : Byte} (h : buildCommand fid s = .next t) :
    ∃ c, s.cs = some c ∧ t = { s with
      fidin := some fid, opt := some (Buf.ofBytes []), rv := false, tx := some (Buf.ofBytes (c.bytes ++ [fid])),
      status := stOk } := by
  rcases Option.eq_none_or_eq_some s.cs with hc | ⟨c, hc⟩
  · simp [buildCommand, encodeOp, optTooLong, hc] at h
  rw [buildCommand_of fid hc] at h
  cases h
  exact ⟨c, hc, rfl⟩

/-! ## The receive sequencer -/

@[simp] theorem irqNext_processing (im : Bool) : irqNext im .processing = .processing := by cases im <;> rfl
@[simp] theorem irqNext_framePending (im : Bool) : irqNext im .framePending = .framePending := by cases im <;> rfl

theorem irqNext_masked (rx : RxState) : irqNext true rx = rx := rfl

theorem irqTimes_of_fixed {im : Bool} {rx : RxState} (h : irqNext im rx = rx) : ∀ n, irqTimes n im rx = rx
  | 0 => rfl
  | n + 1 => by rw [irqTimes, h, irqTimes_of_fixed h n]

/-- IRQ events between micro-steps do nothing but be drawn, where RXSTATE is not Idle (R163). -/
theorem interleave_eq_of_busy {s : State} (h : irqNext s.im s.rxstate = s.rxstate) :
    interleave s = { s with env := Env.count { s.env with edges := s.env.edges.tail } } := by
  simp [interleave, irqTimes_of_fixed h]

theorem interleave_rxstate_of_busy {s : State} (h : irqNext s.im s.rxstate = s.rxstate) :
    (interleave s).rxstate = s.rxstate := by rw [interleave_eq_of_busy h]

theorem interleave_of_busy {s : State} (h : irqNext s.im s.rxstate = s.rxstate) :
    ∃ e, interleave s = { s with env := e } :=
  ⟨_, interleave_eq_of_busy h⟩

theorem length_fitBytes (k : Nat) (given : List Byte) (n : Nat) : (fitBytes k given n).length = n := by
  simp [fitBytes]

/-- A listed answer of the right length stands as it is. -/
theorem fitBytes_self (k : Nat) (given : List Byte) : fitBytes k given given.length = given := by
  apply List.ext_getElem
  · simp [fitBytes]
  · intro i h1 h2
    simp [fitBytes, List.getD_eq_getElem?_getD, h2]

/-- What `typePick` gives is a code of the type. -/
theorem typeHas_of_typePick {t : Config.StatusType} {z c : Int} (h : typePick t z = some c) : typeHas t c = true := by
  cases t with
  | signed n =>
    have hc : ((2 ^ n : Nat) : Int) = 2 ^ n := by push_cast; rfl
    have h0 : 0 < 2 ^ n := Nat.two_pow_pos n
    have h1 := Int.le_bmod (x := z) h0
    have h2 := Int.bmod_lt (x := z) h0
    rw [Option.some.inj h] at h1 h2
    simp only [typeHas, Bool.and_eq_true, decide_eq_true_eq, ← hc]
    have h3 : 2 ^ n = 1 ∨ 2 ^ n % 2 = 0 := by
      cases n with
      | zero => exact .inl rfl
      | succ n => exact .inr (by rw [pow_succ]; omega)
    generalize 2 ^ n = m at h0 h1 h2 h3 ⊢
    have h4 : -(m : Int) ≤ 2 * c ∧ 2 * c < (m : Int) := by rcases h3 with rfl | h3 <;> omega
    exact h4
  | unsigned n =>
    cases h
    have h0 : (0 : Int) < 2 ^ n := by positivity
    simp [typeHas, Int.emod_nonneg z h0.ne', Int.emod_lt_of_pos z h0]
  | codes l => simpa [typeHas] using List.mem_of_getElem? h

/-- A draw of a status is a value of the driver's status type. -/
theorem isStatus_fitStatus (p : Config.Params) (z : DrvStatus) : isStatus p (fitStatus p z) = true := by
  unfold fitStatus
  split
  · assumption
  · cases h : typePick p.drvType z with
    | none => simp [isStatus]
    | some c => simp [isStatus, typeHas_of_typePick h]

/-- A value of the type stands as it is. -/
theorem fitStatus_self {p : Config.Params} {z : DrvStatus} (h : isStatus p z = true) : fitStatus p z = z := if_pos h

@[simp] theorem isStatus_drvOk (p : Config.Params) : isStatus p p.drvOk = true := by simp [isStatus]
@[simp] theorem fitStatus_drvOk (p : Config.Params) : fitStatus p p.drvOk = p.drvOk := fitStatus_self (isStatus_drvOk p)

theorem isStatus_drawTransmit (s : State) : isStatus s.params (drawTransmit s).1 = true := isStatus_fitStatus _ _
theorem isStatus_drawStart (s : State) : isStatus s.params (drawStart s).1 = true := isStatus_fitStatus _ _

/-- `getPacketLength` answers at most RX_CAP where the environment keeps R205. -/
theorem drawPacketLength_le {s : State} (h : LengthDrawOk s) : (drawPacketLength s).1 ≤ s.params.rxCap := by
  unfold drawPacketLength
  cases hl : s.env.packetLength with
  | nil =>
    have := Nat.mod_lt (Config.freeLength s.env.drawn) (Nat.succ_pos s.params.rxCap)
    simpa using Nat.lt_succ_iff.1 this
  | cons n ns => exact h n (by simp [hl])

theorem length_drawReadData (n : Nat) (s : State) : (drawReadData n s).1.2.length = n := by
  unfold drawReadData
  cases s.env.readData <;> simp [length_fitBytes]

/-- The state the exit of POLL leaves (R160). -/
theorem pollLeave_eq (s : State) :
    ∃ st e, isStatus s.params st = true ∧ pollLeave s = { s with
      rxstate := .idle, im := false, drvlog := s.drvlog ++ [.startReceive st], env := e } := by
  refine ⟨(drawStart (interleave s)).1, (pollLeave s).env, isStatus_drawStart (interleave s), ?_⟩
  simp [pollLeave, pollExit, pollRearm, logCall, drawStart, interleave]

/-- What a dispatch branch can leave: a status, at most one telemetry result and RV changed, one notification more. -/
def Dispatched (s t : State) : Prop :=
  ∃ telemetry packet rv status n, t = { s with
      telemetry := telemetry, packet := packet, rv := rv, status := status, note := s.note ++ [n] }
    ∧ (status = s.status ∨ isStatusCode status) ∧ (rv = s.rv ∨ ∃ o, s.opt = some o ∧ o.len.toNat ≤ 255)

theorem execFrameRespPong_dispatched {s t : State} (h : execFrameRespPong s = .next t) : Dispatched s t := by
  cases h
  exact ⟨s.telemetry, s.packet, s.rv, s.status, .ack, rfl, .inl rfl, .inl rfl⟩

theorem execFrameRespSysinfo_of {s : State} {o : Buf} (ho : s.opt = some o) (hlen : o.len.toNat ≤ 255) :
    execFrameRespSysinfo s =
      if o.len.toNat < sysinfoLen s.params.layout then
        .next { s with telemetry := none, status := stTooShort, note := s.note ++ [errorNote stTooShort] }
      else .next { s with
        telemetry := some (SysInfo.build (fieldValue s.params.layout o.mem)), status := stOk,
        note := s.note ++ [.telemetry (SysInfo.build (fieldValue s.params.layout o.mem))] } := by
  rw [execFrameRespSysinfo, dsysinfoOp_of ho hlen]
  split <;> rfl

theorem execFrameRespSysinfo_dispatched {s t : State} (h : execFrameRespSysinfo s = .next t) : Dispatched s t := by
  obtain ⟨_, h1, -⟩ := andThen_eq_next.1 h
  obtain ⟨o, ho, hlen, -⟩ := dsysinfoOp_eq_next h1
  rw [execFrameRespSysinfo_of ho hlen] at h
  split at h <;> cases h
  · exact ⟨_, s.packet, s.rv, _, _, rfl, .inr (by decide), .inl rfl⟩
  · exact ⟨_, s.packet, s.rv, _, _, rfl, .inr (by decide), .inl rfl⟩

theorem execFrameRespLastpkt_of {s : State} {o : Buf} (ho : s.opt = some o) (hlen : o.len.toNat ≤ 255) :
    execFrameRespLastpkt s =
      if o.len.toNat < 2 then
        .next { s with packet := none, status := stTooShort, note := s.note ++ [errorNote stTooShort] }
      else if 2 < o.len.toNat then
        .next { s with packet := none, status := stTooLong, note := s.note ++ [errorNote stTooLong] }
      else .next { s with
        packet := some { snrq := o.mem.read 0, rssih := o.mem.read 1 }, status := stOk,
        note := s.note ++ [.packetInfo (o.mem.read 0) (o.mem.read 1)] } := by
  rw [execFrameRespLastpkt, dlastpktOp_of ho hlen]
  split
  · rfl
  · split <;> rfl

theorem execFrameRespLastpkt_dispatched {s t : State} (h : execFrameRespLastpkt s = .next t) : Dispatched s t := by
  obtain ⟨_, h1, -⟩ := andThen_eq_next.1 h
  obtain ⟨o, ho, hlen, -⟩ := dlastpktOp_eq_next h1
  rw [execFrameRespLastpkt_of ho hlen] at h
  split at h
  · cases h
    exact ⟨s.telemetry, _, s.rv, _, _, rfl, .inr (by decide), .inl rfl⟩
  · split at h <;> cases h
    · exact ⟨s.telemetry, _, s.rv, _, _, rfl, .inr (by decide), .inl rfl⟩
    · exact ⟨s.telemetry, _, s.rv, _, _, rfl, .inr (by decide), .inl rfl⟩

theorem execFrameRespRepeated_of {s : State} {o : Buf} (ho : s.opt = some o) (hlen : o.len.toNat ≤ 255) :
    execFrameRespRepeated s =
      .next { s with rv := true, status := stOk, note := s.note ++ [.relayedText o.bytes] } := by
  simp [execFrameRespRepeated, drepeatOp, withOpt_of_some ho hlen, finish, emit]

theorem execFrameRespRepeated_dispatched {s t : State} (h : execFrameRespRepeated s = .next t) : Dispatched s t := by
  obtain ⟨o, ho, hlen, -⟩ := withOpt_eq_next.1 h
  rw [execFrameRespRepeated_of ho hlen] at h
  cases h
  exact ⟨s.telemetry, s.packet, true, _, _, rfl, .inr (by decide), .inr ⟨o, ho, hlen⟩⟩

theorem execFrameUnrecognized_dispatched {fid : Byte} {s t : State} (h : execFrameUnrecognized fid s = .next t) :
    Dispatched s t := by
  cases h
  exact ⟨s.telemetry, s.packet, s.rv, stUnrecognized, _, rfl, .inr (by decide), .inl rfl⟩

/-- Every dispatch branch: what it can leave (R156 to R161). -/
theorem dispatch_dispatched {s t : State} (h : dispatch s = .next t) : Dispatched s t := by
  unfold dispatch at h
  split at h
  · cases h
  · split at h
    · exact execFrameRespPong_dispatched h
    · exact execFrameRespSysinfo_dispatched h
    · exact execFrameRespLastpkt_dispatched h
    · exact execFrameRespRepeated_dispatched h
    · exact execFrameUnrecognized_dispatched h

/-- Dispatch completes wherever DECODE has left a function id and optional data (R156). -/
theorem dispatch_completes {s : State} {fid : Byte} {o : Buf} (hf : s.fid = some fid) (ho : s.opt = some o)
    (hlen : o.len.toNat ≤ 255) : ∃ t, dispatch s = .next t := by
  simp only [dispatch, hf]
  split
  · exact ⟨_, rfl⟩
  · rw [execFrameRespSysinfo_of ho hlen]
    split <;> exact ⟨_, rfl⟩
  · rw [execFrameRespLastpkt_of ho hlen]
    split
    · exact ⟨_, rfl⟩
    · split <;> exact ⟨_, rfl⟩
  · exact ⟨_, execFrameRespRepeated_of ho hlen⟩
  · exact ⟨_, rfl⟩

/-- What P5 and P6 can leave (R155 to R161): one notification more; the decoded frame, the results of one decoder, a status, and
the environment changed. -/
def Interpreted (s t : State) : Prop :=
  ∃ fid opt telemetry packet rv status n e, t = { s with
      fid := fid, opt := opt, telemetry := telemetry, packet := packet, rv := rv, status := status,
      note := s.note ++ [n], env := e }
    ∧ isStatusCode status ∧ (rv = true → s.rv = true ∨ ∃ o, opt = some o ∧ o.len.toNat ≤ 255)
    ∧ (opt = s.opt ∨ opt = none ∨ ∃ d : List Byte, d.length ≤ 255 ∧ opt = some (Buf.ofBytes d))

theorem isStatusCode_frameErrorCode (e : FrameError) : isStatusCode (frameErrorCode e) := by cases e <;> decide

theorem frameErrorCode_ne_ok (e : FrameError) : frameErrorCode e ≠ stOk := by cases e <;> decide

/-- P5 and P6 when DECODE accepts the frame: dispatch on the state it leaves. -/
theorem pollInterpret_ok {s : State} {c r : Buf} {fid : Byte} {d : List Byte} (hs : s.rxstate = .processing)
    (hc : s.cs = some c) (hr : s.rx = some r) (h : decodeFrame c.bytes r.bytes = .ok (fid, d)) :
    ∃ e, pollInterpret s = dispatch
      { s with fid := some fid, opt := some (Buf.ofBytes d), rv := false, status := stOk, env := e } := by
  obtain ⟨e, he⟩ := interleave_of_busy
    (s := { s with fid := some fid, opt := some (Buf.ofBytes d), rv := false, status := stOk }) (by simp [hs])
  refine ⟨e, ?_⟩
  rw [pollInterpret, decodeOp_ok hc hr h, andThen_next]
  simp only [he, if_pos]

/-- P5 when DECODE rejects the frame: one notification with its code. -/
theorem pollInterpret_error {s : State} {c r : Buf} {err : FrameError} (hs : s.rxstate = .processing)
    (hc : s.cs = some c) (hr : s.rx = some r) (h : decodeFrame c.bytes r.bytes = .error err) :
    ∃ e, pollInterpret s = .next
      { s with
        fid := none, opt := none, rv := false, status := frameErrorCode err,
        note := s.note ++ [errorNote (frameErrorCode err)], env := e } := by
  obtain ⟨e, he⟩ := interleave_of_busy
    (s := { s with fid := none, opt := none, rv := false, status := frameErrorCode err }) (by simp [hs])
  refine ⟨e, ?_⟩
  rw [pollInterpret, decodeOp_error hc hr h, andThen_next]
  simp only [he, if_neg (frameErrorCode_ne_ok err)]
  rfl

theorem pollInterpret_interpreted {s t : State} (hs : s.rxstate = .processing) (h : pollInterpret s = .next t) :
    Interpreted s t := by
  obtain ⟨u, h1, -⟩ := andThen_eq_next.1 h
  obtain ⟨c, r, hc, hr, ⟨fid, d, hd, -⟩ | ⟨err, he, -⟩⟩ := decodeOp_eq_next h1
  · obtain ⟨e, h2⟩ := pollInterpret_ok hs hc hr hd
    have hlen := length_of_decodeFrame hd
    rw [h2] at h
    obtain ⟨tel, pk, rv, st, n, rfl, hst, hrv⟩ := dispatch_dispatched h
    refine ⟨some fid, some (Buf.ofBytes d), tel, pk, rv, st, n, e, rfl, ?_, ?_, .inr (.inr ⟨d, hlen, rfl⟩)⟩
    · rcases hst with rfl | hst
      · exact .inl (by simp)
      · exact hst
    · intro hr'
      refine .inr ⟨_, rfl, ?_⟩
      rw [Buf.toNat_len_ofBytes (by omega)]
      exact hlen
  · obtain ⟨e, h2⟩ := pollInterpret_error hs hc hr he
    rw [h2] at h
    cases h
    exact ⟨none, none, s.telemetry, s.packet, false, _, _, e, rfl, isStatusCode_frameErrorCode err, by simp,
      .inr (.inl rfl)⟩

theorem pollInterpret_completes {s : State} {c r : Buf} (hs : s.rxstate = .processing) (hc : s.cs = some c)
    (hr : s.rx = some r) : ∃ t, pollInterpret s = .next t := by
  cases h : decodeFrame c.bytes r.bytes with
  | error err =>
    obtain ⟨e, h2⟩ := pollInterpret_error hs hc hr h
    exact ⟨_, h2⟩
  | ok a =>
    obtain ⟨fid, d⟩ := a
    have hlen := length_of_decodeFrame h
    obtain ⟨e, h2⟩ := pollInterpret_ok hs hc hr h
    rw [h2]
    refine dispatch_completes (fid := fid) (o := Buf.ofBytes d) rfl rfl ?_
    rw [Buf.toNat_len_ofBytes (by omega)]
    exact hlen

/-- What P4 to P6 can leave: as P5 and P6, with RXBUF loaded or, after a read error, as it was (R154). -/
theorem pollFrame_interpreted {st : DrvStatus} {bytes : List Byte} {s t : State} (hs : s.rxstate = .processing)
    (h : pollFrame st bytes s = .next t) :
    ∃ rx, (rx = s.rx ∨ ∃ k, rx = some (Buf.received k bytes)) ∧ Interpreted { s with rx := rx } t := by
  unfold pollFrame at h
  split at h
  · obtain ⟨e, he⟩ := interleave_of_busy (s := { s with rx := some (Buf.received s.env.drawn bytes) }) (by simp [hs])
    rw [he] at h
    obtain ⟨fid, opt, tel, pk, rv, stc, n, e', rfl, h1, h2, h3⟩ := pollInterpret_interpreted (by exact hs) h
    exact ⟨_, .inr ⟨_, rfl⟩, fid, opt, tel, pk, rv, stc, n, e', rfl, h1, h2, h3⟩
  · cases h
    exact ⟨s.rx, .inl rfl, s.fid, s.opt, s.telemetry, s.packet, s.rv, stTransport, _, s.env, rfl, by decide, .inl, .inl rfl⟩

theorem pollFrame_completes {st : DrvStatus} {bytes : List Byte} {s : State} {c : Buf} (hs : s.rxstate = .processing)
    (hc : s.cs = some c) : ∃ t, pollFrame st bytes s = .next t := by
  unfold pollFrame
  split
  · obtain ⟨e, he⟩ := interleave_of_busy (s := { s with rx := some (Buf.received s.env.drawn bytes) }) (by simp [hs])
    rw [he]
    exact pollInterpret_completes (by exact hs) (by exact hc) rfl
  · exact ⟨_, rfl⟩

/-- What `getPacketLength` answers in POLL (R152 P2): it does not depend on the IRQ events in the gaps. -/
def polledLength (s : State) : Nat :=
  s.env.packetLength.headD (Config.freeLength (s.env.drawn + 2) % (s.params.rxCap + 1))

/-- What `readData` answers in POLL (R152 P3): it does not depend on the IRQ events in the gaps. -/
def polledRead (s : State) : DrvStatus × List Byte :=
  match s.env.readData with
  | [] => (fitStatus s.params (Config.freeStatus (s.env.drawn + 4)), fitBytes (s.env.drawn + 4) [] (polledLength s))
  | (st, given) :: _ => (fitStatus s.params st, fitBytes (s.env.drawn + 4) given (polledLength s))

theorem polledLength_le {s : State} (h : LengthDrawOk s) : polledLength s ≤ s.params.rxCap := by
  unfold polledLength
  cases hl : s.env.packetLength with
  | nil => exact Nat.lt_succ_iff.1 (Nat.mod_lt _ (Nat.succ_pos _))
  | cons n ns => exact h n (by simp [hl])

theorem polledLength_of_cons {s : State} {n : Nat} {ns : List Nat} (h : s.env.packetLength = n :: ns) :
    polledLength s = n := by simp [polledLength, h]

theorem length_polledRead (s : State) : (polledRead s).2.length = polledLength s := by
  unfold polledRead
  split <;> exact length_fitBytes _ _ _

theorem isStatus_polledRead (s : State) : isStatus s.params (polledRead s).1 = true := by
  unfold polledRead
  split <;> exact isStatus_fitStatus _ _

theorem polledRead_of_cons {s : State} {st : DrvStatus} {given : List Byte} {as : List (DrvStatus × List Byte)}
    (h : s.env.readData = (st, given) :: as) (hs : isStatus s.params st = true) (hl : given.length = polledLength s) :
    polledRead s = (st, given) := by
  simp only [polledRead, h, fitStatus_self hs]
  rw [← hl, fitBytes_self]

theorem pollLength_fst {s u : State} (hp : u.params = s.params) (hl : u.env.packetLength = s.env.packetLength)
    (hd : u.env.drawn = s.env.drawn + 2) : (pollLength u).1 = polledLength s := by
  simp only [pollLength, drawPacketLength, polledLength, hp, hl, hd]

theorem pollRead_fst {s u : State} (hp : u.params = s.params) (hr : u.env.readData = s.env.readData) (hd : u.env.drawn = s.env.drawn + 4) :
    (pollRead (polledLength s) u).1 = polledRead s := by
  cases h : s.env.readData <;> simp only [pollRead, drawReadData, polledRead, hp, hr, hd, h]

/-- P0 to the gap after P1: what P2 starts from (R152). -/
theorem pollEnter_stage {s : State} (h : s.rxstate = .framePending) :
    ∃ e, e.packetLength = s.env.packetLength ∧ e.readData = s.env.readData ∧ e.drawn = s.env.drawn + 2
      ∧ interleave (pollEnter (interleave s)) = { s with
          rxstate := .processing, im := true, fid := none, opt := none, telemetry := none, packet := none, rv := false,
          rx := none, env := e } := by
  refine ⟨Env.count { (interleave s).env with edges := (interleave s).env.edges.tail }, rfl, rfl, rfl, ?_⟩
  rw [interleave_eq_of_busy (s := pollEnter (interleave s)) (by simp [pollEnter]), interleave_eq_of_busy (s := s) (by simp [h])]
  simp only [pollEnter]

/-- P2 and the gap after it. -/
theorem pollLength_stage {s : State} (h : s.rxstate = .processing) :
    ∃ e, e.readData = s.env.readData ∧ e.drawn = s.env.drawn + 2
      ∧ interleave (pollLength s).2 =
          { s with drvlog := s.drvlog ++ [.getPacketLength (pollLength s).1], env := e } := by
  refine ⟨Env.count { (drawPacketLength s).2.env with edges := s.env.edges.tail }, rfl, rfl, ?_⟩
  rw [interleave_eq_of_busy (by simp [pollLength, h])]
  rfl

/-- P3 and the gap after it. -/
theorem pollRead_stage {s : State} (n : Nat) (h : s.rxstate = .processing) :
    ∃ e, interleave (pollRead n s).2 = { s with
      drvcode := some (pollRead n s).1.1,
      drvlog := s.drvlog ++ [.readData n (pollRead n s).1.1 (pollRead n s).1.2], env := e } := by
  refine ⟨Env.count { (drawReadData n s).2.env with edges := s.env.edges.tail }, ?_⟩
  rw [interleave_eq_of_busy (by simp [pollRead, h])]
  rfl

/-- The state after P3 and the gap after it: what P4 starts from (R152). -/
def pulled (s : State) (e : Env) : State :=
  { s with
    rxstate := .processing, im := true, fid := none, opt := none, telemetry := none, packet := none, rv := false, rx := none,
    drvcode := some (polledRead s).1,
    drvlog := s.drvlog ++ [.getPacketLength (polledLength s), .readData (polledLength s) (polledRead s).1 (polledRead s).2],
    env := e }

/-- POLL with a frame pending (R152): the draws it makes, and its stages after them. -/
theorem pollPending_eq {s : State} (h : s.rxstate = .framePending) :
    ∃ e, pollPending s =
      if s.params.rxCap < polledLength s then .refused .packetLengthAboveCapacity
      else andThen (pollFrame (polledRead s).1 (polledRead s).2 (pulled s e)) fun u => .next (pollLeave u) := by
  obtain ⟨e1, hl1, hr1, hd1, h1⟩ := pollEnter_stage h
  have hn : (pollLength (interleave (pollEnter (interleave s)))).1 = polledLength s := by
    rw [h1]
    exact pollLength_fst rfl hl1 hd1
  obtain ⟨e2, hr2, hd2, h2⟩ := pollLength_stage (s := interleave (pollEnter (interleave s))) (by rw [h1])
  rw [hn, h1] at h2
  have hb : (pollRead (polledLength s)
      (interleave (pollLength (interleave (pollEnter (interleave s)))).2)).1 = polledRead s := by
    rw [h1] at hr2 hd2 ⊢
    rw [h2]
    exact pollRead_fst rfl (hr2.trans hr1) (hd2.trans (by rw [hd1]))
  obtain ⟨e3, h3⟩ := pollRead_stage (s := interleave (pollLength (interleave (pollEnter (interleave s)))).2)
    (polledLength s) (by rw [h1, h2])
  refine ⟨e3, ?_⟩
  unfold pollPending
  simp only [hn, h3, hb]
  rw [h1, h2]
  simp only [pulled, List.append_assoc, List.cons_append, List.nil_append]

end Sys2Proof.Machine
end

