-- ==== Sys2Proof/Laws/PerInstr.lean ====
section
/-! SUPPORT. What holds of every instruction as syntax: its encoding is an input of the instruction's own kind, under every choice of
the parameters (the `kind` column of R90, the direction column of R77). -/

namespace Sys2Proof.Laws.EncodeForm

/-- The encoding of `i` arrives where instructions of its kind arrive: at the command port, at the interrupt input, in a received
frame or in a frame the block builds. -/
def Statement (i : Instr) : Prop := ∀ p : Config.Params, (encode p i).kind = i.kind

theorem encode : Statement .encode := fun _ => rfl
theorem decode : Statement .decode := fun _ => rfl
theorem dsysinfo : Statement .dsysinfo := fun _ => rfl
theorem dlastpkt : Statement .dlastpkt := fun _ => rfl
theorem drepeat : Statement .drepeat := fun _ => rfl
theorem poll : Statement .poll := fun _ => rfl
theorem collect (line : List Byte) : Statement (.collect line) := fun _ => rfl
theorem sendPing : Statement .sendPing := fun _ => rfl
theorem sendReqsys : Statement .sendReqsys := fun _ => rfl
theorem sendReqpkt : Statement .sendReqpkt := fun _ => rfl
theorem sendRetx (line : List Byte) : Statement (.sendRetx line) := fun _ => rfl
theorem reserved0 : Statement .reserved0 := fun _ => rfl
theorem reservedC : Statement .reservedC := fun _ => rfl
theorem reservedD : Statement .reservedD := fun _ => rfl
theorem reservedE : Statement .reservedE := fun _ => rfl
theorem reservedF : Statement .reservedF := fun _ => rfl
theorem irq : Statement .irq := fun _ => rfl
theorem frameCmdPing : Statement .frameCmdPing := fun _ => rfl
theorem frameCmdRetransmit : Statement .frameCmdRetransmit := fun _ => rfl
theorem frameCmdSysinfo : Statement .frameCmdSysinfo := fun _ => rfl
theorem frameCmdLastpkt : Statement .frameCmdLastpkt := fun _ => rfl
theorem frameRespPong : Statement .frameRespPong := fun _ => rfl
theorem frameRespRepeated : Statement .frameRespRepeated := fun _ => rfl
theorem frameRespSysinfo : Statement .frameRespSysinfo := fun _ => rfl
theorem frameRespLastpkt : Statement .frameRespLastpkt := fun _ => rfl
theorem frameUnrecognized (fid : Byte) : Statement (.frameUnrecognized fid) := fun _ => rfl

end Sys2Proof.Laws.EncodeForm
end

