-- ==== Sys2Proof/Tests/Slice0.lean ====
section
/-! SUPPORT. Tests of the model on the spec's own vectors (95_test_vectors.md) and on words written out from its encodings, and for
each obligation with hypotheses a witness that meets them. -/

namespace Sys2Proof.Tests

open Sys2Proof Sys2Proof.Machine

/-! ## Helpers -/

/-- The callsign FOSSASAT-1, byte by byte from 95_test_vectors.md. -/
def fossasat : List Byte := [0x46#8, 0x4F#8, 0x53#8, 0x53#8, 0x41#8, 0x53#8, 0x41#8, 0x54#8, 0x2D#8, 0x31#8]

/-- An environment that answers one driver call of each kind and puts no IRQ event into POLL. -/
def answers (frame : DrvStatus × List Byte) : Env where
  transmit := [0]
  start := [0]
  packetLength := [frame.2.length]
  readData := [frame]
  edges := [0, 0, 0, 0, 0, 0, 0, 0, 0]
  drawn := 0

/-- The machine after boot (post-boot column of R42), with nothing received. -/
def booted : State :=
  { State.resetWith Config.default [] (answers (0, [])) with boot := .ready, cs := some (Buf.ofBytes fossasat) }

/-- The machine after boot with optional data in OPT. -/
def holding (d : List Byte) : State := { booted with opt := some (Buf.ofBytes d) }

/-- The machine after boot with a received buffer in RXBUF. -/
def receiving (bs : List Byte) : State := { booted with rx := some (Buf.ofBytes bs) }

/-- The machine after boot with a frame pending in the radio. -/
def pending (st : DrvStatus) (frame : List Byte) : State :=
  { booted with rxstate := .framePending, env := answers (st, frame) }

/-- One step that takes one request from the main loop. -/
def ask (op : BitVec 4) (line : List Byte) (s : State) : Option State :=
  nextState? (step { s with inputs := [.request .mainLoop op line] })

/-- The payload of vector T1. -/
def t1 : List Byte :=
  [0xC8#8, 0xE8#8, 0x03#8, 0xD2#8, 0x64#8, 0x65#8, 0x66#8, 0xC4#8, 0x09#8, 0x18#8, 0xFC#8, 0x19#8, 0x2A#8, 0x00#8, 0xA5#8]

/-! ## Decoding: words written out bit by bit -/

/-- R90: the eleven operation codes. -/
theorem test_decode_operations :
    decodePort 0b0001#4 [] = .encode ∧ decodePort 0b0010#4 [] = .decode ∧ decodePort 0b0011#4 [] = .dsysinfo
      ∧ decodePort 0b0100#4 [] = .dlastpkt ∧ decodePort 0b0101#4 [] = .drepeat ∧ decodePort 0b0110#4 [] = .poll
      ∧ decodePort 0b0111#4 [0x41#8] = .collect [0x41#8] ∧ decodePort 0b1000#4 [] = .sendPing
      ∧ decodePort 0b1001#4 [] = .sendReqsys ∧ decodePort 0b1010#4 [] = .sendReqpkt
      ∧ decodePort 0b1011#4 [0x41#8] = .sendRetx [0x41#8] := by decide

/-- R91: the five reserved codes. -/
theorem test_decode_reserved :
    decodePort 0b0000#4 [] = .reserved0 ∧ decodePort 0b1100#4 [] = .reservedC ∧ decodePort 0b1101#4 [] = .reservedD
      ∧ decodePort 0b1110#4 [] = .reservedE ∧ decodePort 0b1111#4 [] = .reservedF := by decide

/-- R151: the edge has no code. -/
theorem test_decode_edge : (decode Config.default .edge).toOption = some .irq := by decide

/-- R77 with the default ids of G1: the four responses inbound. -/
theorem test_decode_responses :
    decodeInbound Config.default 0b00010000#8 = .frameRespPong ∧ decodeInbound Config.default 0b00010001#8 = .frameRespRepeated
      ∧ decodeInbound Config.default 0b00010011#8 = .frameRespSysinfo
      ∧ decodeInbound Config.default 0b00010100#8 = .frameRespLastpkt
      ∧ decodeInbound Config.default 0b01111111#8 = .frameUnrecognized 0x7F#8
      ∧ decodeInbound Config.default 0b00000000#8 = .frameUnrecognized 0x00#8 := by decide

/-- R77 with the default ids of G1: the four commands outbound, and a response id outbound refused by name. -/
theorem test_decode_commands :
    (decode Config.default (.outbound 0b00000000#8)).toOption = some .frameCmdPing
      ∧ (decode Config.default (.outbound 0b00000001#8)).toOption = some .frameCmdRetransmit
      ∧ (decode Config.default (.outbound 0b00000011#8)).toOption = some .frameCmdSysinfo
      ∧ (decode Config.default (.outbound 0b00000100#8)).toOption = some .frameCmdLastpkt
      ∧ (decode Config.default (.outbound 0b00010000#8)).toOption = none := by decide

/-- Words of the opcode table: the first and the last operation, a reserved code, a response id, an unassigned id, two bytes. -/
theorem test_decode_table_words :
    decodeTableWord 8 0x1 = some .encode ∧ decodeTableWord 8 0xB = some (.sendRetx []) ∧ decodeTableWord 4 0xF = some .reservedF
      ∧ decodeTableWord 8 0x14 = some .frameRespLastpkt ∧ decodeTableWord 8 0x7F = some (.frameUnrecognized 0x7F#8)
      ∧ decodeTableWord 16 0x1 = none := by decide

/-- A word of the table placed at reset is what the next step runs: a reserved code, and a frame of an unassigned id. -/
theorem test_fetch_word :
    (nextState? (step (State.reset.withFetchWord 8 0xC))).map (·.status) = some 0xF#4
      ∧ (nextState? (step (State.reset.withFetchWord 8 0x7F))).map (·.note) = some [.unrecognized 0x7F#8] := by decide

/-! ## Well-formedness: each of its checks refuses an ill-formed term -/

theorem test_wellformed_refuses_pong : WellFormed Config.default (.frameUnrecognized 0x10#8) = false := by decide
theorem test_wellformed_refuses_repeated : WellFormed Config.default (.frameUnrecognized 0x11#8) = false := by decide
theorem test_wellformed_refuses_sysinfo : WellFormed Config.default (.frameUnrecognized 0x13#8) = false := by decide
theorem test_wellformed_refuses_lastpkt : WellFormed Config.default (.frameUnrecognized 0x14#8) = false := by decide
theorem test_wellformed_accepts : WellFormed Config.default (.frameUnrecognized 0x7F#8) = true := by decide

/-! ## Legality of the configuration (R6, R22, R78, R82) -/

/-- The defaults are legal; a layout field of width 0 or 5, a scale of 0 and equal ids are not. -/
theorem test_legality :
    paramsLegal Config.default = true
      ∧ fieldLegal { width := 0, signed := false, num := 1, den := 1 } = false
      ∧ fieldLegal { width := 5, signed := false, num := 1, den := 1 } = false
      ∧ fieldLegal { width := 1, signed := false, num := 0, den := 1 } = false
      ∧ fieldLegal { width := 4, signed := true, num := 1, den := 1 } = true
      ∧ fieldLegal { width := 4, signed := false, num := 1, den := 1 } = false
      ∧ fidsLegal { Config.default with fidRespPong := 0x04#8 } = false := by decide

/-- R6, R207: the values of a signed and an unsigned status type and of a list of codes, at their ends; DRV_OK is one of them. -/
theorem test_status_type :
    typeHas (.signed 16) 32767 = true ∧ typeHas (.signed 16) 32768 = false ∧ typeHas (.signed 16) (-32768) = true
      ∧ typeHas (.signed 16) (-32769) = false ∧ typeHas (.unsigned 8) 255 = true ∧ typeHas (.unsigned 8) 256 = false
      ∧ typeHas (.unsigned 8) (-1) = false ∧ typeHas (.codes [-706]) (-706) = true ∧ typeHas (.codes [-706]) 0 = false
      ∧ isStatus { Config.default with drvType := .codes [-706] } 0 = true := by decide

/-! ## One step per instruction, on the vectors of 95_test_vectors.md -/

/-- E2: format F1. -/
theorem test_encode_e2 :
    (ask 0x1#4 [] { holding [0x68#8, 0x65#8, 0x6C#8, 0x6C#8, 0x6F#8] with fidin := some 0x01#8 }).map
        (fun t => (t.status, t.tx.map Buf.bytes))
      = some (0x0#4, some (fossasat ++ [0x01#8, 0x05#8, 0x68#8, 0x65#8, 0x6C#8, 0x6C#8, 0x6F#8])) := by decide

/-- E7: 256 bytes are a size error. -/
theorem test_encode_e7 :
    (ask 0x1#4 [] { booted with opt := some { len := 256#16, mem := [] }, fidin := some 0x00#8 }).map
        (fun t => (t.status, t.txv)) = some (0x5#4, false) := by decide

/-- R103: the size test is on OPTLEN alone and comes first, also where FIDIN has not been written. -/
theorem test_encode_size_first :
    (ask 0x1#4 [] { booted with opt := some { len := 256#16, mem := [] } }).map (fun t => (t.status, t.txv, t.fidin))
      = some (0x5#4, false, none) := by decide

/-- D11: one trailing byte is ignored. -/
theorem test_decode_d11 :
    (ask 0x2#4 [] (receiving (fossasat ++ [0x14#8, 0x02#8, 0x28#8, 0x10#8, 0xEE#8]))).map
        (fun t => (t.status, t.fid, t.opt.map Buf.bytes)) = some (0x0#4, some 0x14#8, some [0x28#8, 0x10#8]) := by decide

/-- D15: the callsign mismatch beats an impossible length byte. -/
theorem test_decode_d15 :
    (ask 0x2#4 [] (receiving (fossasat.take 9 ++ [0x32#8, 0x14#8, 0xFF#8]))).map (fun t => (t.status, t.fv, t.optv))
      = some (0x2#4, false, false) := by decide

/-- The offsets and the length of R83's table. -/
theorem test_default_offsets :
    (List.finRange 11).map (fieldOffset Config.defaultLayout) = [0, 1, 3, 4, 5, 6, 7, 9, 11, 12, 14]
      ∧ sysinfoLen Config.defaultLayout = 15 := by decide

/-- T1 and the negative 16-bit temperature. -/
theorem test_dsysinfo_t1 :
    (ask 0x3#4 [] (holding t1)).map (fun t => (t.status, t.telemetry.map fun r => r.toList.map BitVec.toInt))
      = some (0x0#4, some [4000, 10000, 4200, 2000, 2020, 2040, 25000, -10000, 25, 42, 165]) := by decide

/-- T2: one byte short. -/
theorem test_dsysinfo_t2 :
    (ask 0x3#4 [] (holding (t1.take 14))).map (fun t => (t.status, t.tv)) = some (0x3#4, false) := by decide

/-- K1: the source's scenario 2. -/
theorem test_dlastpkt_k1 :
    (ask 0x4#4 [] (holding [0x28#8, 0x10#8])).map (fun t => (t.status, t.packet))
      = some (0x0#4, some { snrq := 40#8, rssih := 16#8 }) := by decide

/-- K8: three bytes are too many. -/
theorem test_dlastpkt_k8 :
    (ask 0x4#4 [] (holding [0x28#8, 0x10#8, 0x00#8])).map (fun t => (t.status, t.pv)) = some (0x4#4, false) := by decide

/-- X3: non-printable bytes pass unchanged. -/
theorem test_drepeat_x3 :
    (ask 0x5#4 [] (holding [0x00#8, 0xFF#8, 0x0D#8, 0x0A#8])).map (fun t => (t.status, t.rv, t.opt.map Buf.bytes))
      = some (0x0#4, true, some [0x00#8, 0xFF#8, 0x0D#8, 0x0A#8]) := by decide

/-- P2: two IRQ events between P1 and P2 do nothing; one notification. -/
theorem test_poll_p2 :
    (ask 0x6#4 [] { pending 0 (fossasat ++ [0x14#8, 0x02#8, 0x28#8, 0x10#8]) with
        env := { answers (0, fossasat ++ [0x14#8, 0x02#8, 0x28#8, 0x10#8]) with edges := [0, 2, 0, 0, 0, 0, 0, 0, 0] } }).map
        (fun t => (t.rxstate, t.im, t.note)) = some (.idle, false, [.packetInfo 40#8 16#8]) := by decide

/-- P7: a driver read error, -706. -/
theorem test_poll_p7 :
    (ask 0x6#4 [] (pending (-706) [0#8, 0#8, 0#8, 0#8, 0#8])).map
        (fun t => (t.status, t.drvcode, t.rxv, t.note))
      = some (0x6#4, some (-706), false, [.error .transportRx (-706)]) := by decide

/-- L7: the line stops at the first terminator. -/
theorem test_collect_l7 :
    (ask 0x7#4 [0x61#8, 0x62#8, 0x0D#8, 0x63#8, 0x64#8, 0x0A#8] booted).map (fun t => (t.status, t.opt.map Buf.bytes))
      = some (0x0#4, some [0x61#8, 0x62#8]) := by decide

/-- L9: thirty-three bytes are cut at the cap. -/
theorem test_collect_l9 :
    (ask 0x7#4 (List.replicate 33 0x41#8 ++ [0x0D#8, 0x0A#8]) booted).map (fun t => t.opt.map Buf.bytes)
      = some (some (List.replicate 32 0x41#8)) := by decide

/-- TX1. -/
theorem test_send_ping_tx1 :
    (ask 0x8#4 [] booted).map (fun t => (t.status, t.drvcode, t.note, t.tx.map Buf.bytes))
      = some (0x0#4, some 0, [.txStatus 0], some (fossasat ++ [0x00#8])) := by decide

/-- TX2: the driver answers -5. -/
theorem test_send_ping_tx2 :
    (ask 0x8#4 [] { booted with env := { booted.env with transmit := [-5] } }).map
        (fun t => (t.status, t.note, t.txv)) = some (0x6#4, [.txStatus (-5)], true) := by decide

/-- The first line of P4. -/
theorem test_send_reqsys_p4 :
    (ask 0x9#4 [] booted).map (fun t => t.tx.map Buf.bytes) = some (some (fossasat ++ [0x03#8])) := by decide

/-- The first line of P2. -/
theorem test_send_reqpkt_p2 :
    (ask 0xA#4 [] booted).map (fun t => t.tx.map Buf.bytes) = some (some (fossasat ++ [0x04#8])) := by decide

/-- The first line of P5. -/
theorem test_send_retx_p5 :
    (ask 0xB#4 [0x68#8, 0x65#8, 0x6C#8, 0x6C#8, 0x6F#8, 0x0D#8, 0x0A#8] booted).map (fun t => (t.drvlog, t.fidin))
      = some ([.transmit (fossasat ++ [0x01#8, 0x05#8, 0x68#8, 0x65#8, 0x6C#8, 0x6C#8, 0x6F#8]) 17 0], some 0x01#8) := by
  decide

/-- O1. -/
theorem test_reserved_o1 : (ask 0x0#4 [] booted).map (·.status) = some 0xF#4 := by decide

/-- O2. -/
theorem test_reserved_o2 :
    (ask 0xC#4 [] booted).map (·.status) = some 0xF#4 ∧ (ask 0xD#4 [] booted).map (·.status) = some 0xF#4
      ∧ (ask 0xE#4 [] booted).map (·.status) = some 0xF#4 ∧ (ask 0xF#4 [] booted).map (·.status) = some 0xF#4 := by decide

/-- I1. -/
theorem test_irq_i1 : (nextState? (step { booted with inputs := [.edge] })).map (·.rxstate) = some .framePending := by decide

/-- I3: masked. -/
theorem test_irq_i3 :
    (nextState? (exec .irq { booted with rxstate := .processing, im := true })).map (·.rxstate) = some .processing := by decide

/-- S1: the frame of a ping. -/
theorem test_frame_cmd_ping :
    (nextState? (exec .frameCmdPing booted)).map (fun t => t.tx.map Buf.bytes) = some (some (fossasat ++ [0x00#8])) := by decide

/-- E3. -/
theorem test_frame_cmd_sysinfo :
    (nextState? (exec .frameCmdSysinfo booted)).map (fun t => t.tx.map Buf.bytes) = some (some (fossasat ++ [0x03#8])) := by decide

/-- E4. -/
theorem test_frame_cmd_lastpkt :
    (nextState? (exec .frameCmdLastpkt booted)).map (fun t => t.tx.map Buf.bytes) = some (some (fossasat ++ [0x04#8])) := by decide

/-- E2 once more, built as the retransmit command. -/
theorem test_frame_cmd_retransmit :
    (nextState? (exec .frameCmdRetransmit (holding [0x68#8, 0x65#8]))).map (fun t => t.tx.map Buf.bytes)
      = some (some (fossasat ++ [0x01#8, 0x02#8, 0x68#8, 0x65#8])) := by decide

/-- The POLL of P1. -/
theorem test_pong_p1 :
    (ask 0x6#4 [] (pending 0 (fossasat ++ [0x10#8]))).map (fun t => (t.note, t.status, t.rx.map Buf.bytes))
      = some ([.ack], 0x0#4, some (fossasat ++ [0x10#8])) := by decide

/-- The POLL of P5: the slice, not the frame. -/
theorem test_repeated_p5 :
    (ask 0x6#4 [] (pending 0 (fossasat ++ [0x11#8, 0x05#8, 0x68#8, 0x65#8, 0x6C#8, 0x6C#8, 0x6F#8]))).map
        (fun t => (t.note, t.rv)) = some ([.relayedText [0x68#8, 0x65#8, 0x6C#8, 0x6C#8, 0x6F#8]], true) := by decide

/-- The POLL of P8: one byte short. -/
theorem test_sysinfo_p8 :
    (ask 0x6#4 [] (pending 0 (fossasat ++ [0x13#8, 0x0E#8] ++ t1.take 14))).map (fun t => (t.note, t.tv, t.fid))
      = some ([.error .payloadTooShort 3], false, some 0x13#8) := by decide

/-- The second POLL of P9. -/
theorem test_lastpkt_p9 :
    (ask 0x6#4 [] (pending 0 (fossasat ++ [0x14#8, 0x03#8, 0x28#8, 0x10#8, 0x00#8]))).map (fun t => (t.note, t.pv, t.status))
      = some ([.error .payloadTooLong 4], false, 0x4#4) := by decide

/-- P6. -/
theorem test_unrecognized_p6 :
    (ask 0x6#4 [] (pending 0 (fossasat ++ [0x7F#8]))).map (fun t => (t.note, t.status, t.fid, t.rxstate))
      = some ([.unrecognized 0x7F#8], 0x7#4, some 0x7F#8, .idle) := by decide

/-- The first POLL of P3: a frame for another station. -/
theorem test_not_addressed_p3 :
    (ask 0x6#4 [] (pending 0 (fossasat.take 9 ++ [0x32#8, 0x10#8]))).map (fun t => (t.note, t.status, t.fv))
      = some ([.error .frameNotAddressed 2], 0x2#4, false) := by decide

/-- R21: a host read of an invalid register returns no value, and the machine goes on. -/
theorem test_read_invalid :
    hostRead booted .fid = none ∧ (nextState? (step { booted with inputs := [.read .fid] })).map (·.status) = some 0x0#4 := by
  decide

/-! ## Witnesses: for each obligation with hypotheses, states and operands that meet them, one clause after the other -/

/-- A buffer of `n` zero bytes. -/
def zeros (n : Nat) : Buf := { len := BitVec.ofNat 16 n, mem := [] }

/-- A buffer holding the callsign. -/
def station : Buf := Buf.ofBytes fossasat

theorem optLenOk_of_check {s : State} (h : optTooLong s = false) : OptLenOk s := optTooLong_eq_false.1 h

theorem witness_RestartForgetsEverything :
    ({ booted with inputs := [.restart Config.default, .edge] } : State).inputs = .restart Config.default :: [.edge] := rfl

theorem callsignLegal_replicate {n : Nat} (h : 1 ≤ n) :
    callsignLegal { Config.default with callsign := List.replicate n 0x41#8, lMax := n } = true := by
  simp [callsignLegal, printable, h]

/-- Before boot, each clause in turn: no callsign, one byte too many, the bytes below and above the printable ones, an RX_CAP of `L`,
an `L` of 65279, two equal ids, a counter that is scaled, and the defaults with a callsign whose bytes are the two ends of the
printable range and an RX_CAP of `L + 1`; a booted machine and one whose boot failed. -/
theorem witness_BootSequence :
    ({ State.reset with inputs := [.boot true] } : State).inputs = .boot true :: [] ∧ State.reset.boot = .notBooted
      ∧ ({ Config.default with callsign := [] } : Config.Params).callsign = []
      ∧ Config.default.lMax < (List.replicate 33 0x41#8).length
      ∧ (∃ b ∈ [0x1F#8], b.toNat < 0x20 ∨ 0x7E < b.toNat) ∧ (∃ b ∈ [0x7F#8], b.toNat < 0x20 ∨ 0x7E < b.toNat)
      ∧ callsignLegal { Config.default with rxCap := 10 } = true ∧ 10 < Config.default.callsign.length + 1
      ∧ callsignLegal { Config.default with callsign := List.replicate 65279 0x41#8, lMax := 65279 } = true
      ∧ 65536 ≤ (List.replicate 65279 0x41#8).length + 257
      ∧ callsignLegal Config.default = true ∧ capacitiesLegal Config.default = true ∧ fidsLegal Config.default = true
      ∧ ¬ [(0x00#8 : Byte), 0x01#8, 0x03#8, 0x04#8, 0x04#8, 0x11#8, 0x13#8, 0x14#8].Nodup
      ∧ layoutLegal { Config.defaultLayout with resetCounter := { width := 2, signed := false, num := 2, den := 1 } } = false
      ∧ [(0x20#8 : Byte), 0x7E#8].length ≤ 2 ∧ (∀ b ∈ [(0x20#8 : Byte), 0x7E#8], 0x20 ≤ b.toNat ∧ b.toNat ≤ 0x7E)
      ∧ [(0x20#8 : Byte), 0x7E#8].length + 1 ≤ 3 ∧ [(0x20#8 : Byte), 0x7E#8].length + 257 < 65536
      ∧ [(0x00#8 : Byte), 0x01#8, 0x03#8, 0x04#8, 0x10#8, 0x11#8, 0x13#8, 0x14#8].Nodup
      ∧ layoutLegal Config.defaultLayout = true ∧ booted.boot = .ready
      ∧ ({ State.reset with boot := .failed } : State).boot = .failed := by
  refine ⟨rfl, rfl, rfl, by decide, by decide, by decide, by decide, by decide, callsignLegal_replicate (by decide), ?_,
    by decide, by decide, by decide, by decide, by decide, by decide, by decide, by decide, by decide, by decide, by decide, rfl,
    rfl⟩
  rw [List.length_replicate]

theorem witness_StepRunsRequest :
    booted.boot = .ready
      ∧ ({ booted with inputs := [.request .mainLoop 0x7#4 [0x41#8]] } : State).inputs = .request .mainLoop 0x7#4 [0x41#8] :: []
      ∧ decode booted.params (.port 0x7#4 [0x41#8]) = .ok (.collect [0x41#8]) := ⟨rfl, rfl, rfl⟩

theorem witness_StepRunsEdge :
    ({ booted with inputs := [.edge] } : State).inputs = .edge :: [] ∧ booted.boot = .ready
      ∧ decode booted.params .edge = .ok .irq ∧ State.reset.boot ≠ .ready := ⟨rfl, rfl, rfl, by decide⟩

theorem witness_BlockWaits : Complete State.reset := rfl

theorem witness_DispatchRunsFrameInstruction :
    ({ booted with fid := some 0x10#8 } : State).fid = some 0x10#8
      ∧ decode booted.params (.inbound 0x10#8) = .ok .frameRespPong := ⟨rfl, rfl⟩

theorem witness_FunctionIdClasses :
    fidsLegal Config.default = true ∧ 0x7F#8 ≠ Config.default.fidRespPong ∧ 0x7F#8 ≠ Config.default.fidRespSysinfo
      ∧ 0x7F#8 ≠ Config.default.fidRespLastpkt ∧ 0x7F#8 ≠ Config.default.fidRespRepeated := by decide

theorem witness_InboundCommandsUnrecognized :
    fidsLegal Config.default = true
      ∧ 0x01#8 ∈ [Config.default.fidCmdPing, Config.default.fidCmdRetransmit, Config.default.fidCmdSysinfo,
                  Config.default.fidCmdLastpkt] := by decide

theorem witness_DecodeEncodeAgree :
    fidsLegal Config.default = true ∧ WellFormed Config.default (.frameUnrecognized 0xFF#8) = true
      ∧ WellFormed Config.default (.sendRetx [0x41#8]) = true := by decide

/-- LINEIN with COLLECT and with SEND_RETX, none with a reserved code, and a frame byte. -/
theorem witness_EncodeDecodeAgree :
    decode Config.default (.port 0x7#4 [0x41#8]) = .ok (.collect [0x41#8])
      ∧ decode Config.default (.port 0xB#4 [0x41#8]) = .ok (.sendRetx [0x41#8])
      ∧ decode Config.default (.port 0xF#4 []) = .ok .reservedF
      ∧ (∀ op line, Input.port 0xF#4 [] = .port op line → line = [] ∨ op = 0x7#4 ∨ op = 0xB#4)
      ∧ decode Config.default (.outbound 0x04#8) = .ok .frameCmdLastpkt := by
  refine ⟨rfl, rfl, rfl, ?_, rfl⟩
  intro op line h
  cases h
  exact .inl rfl

/-- Each operand missing in turn, the ones before it present; the last line for POLL without a callsign. -/
theorem witness_InvalidOperandsFault :
    State.reset.cs = none ∧ booted.cs ≠ none ∧ booted.fidin = none
      ∧ ({ booted with fidin := some 0#8 } : State).fidin ≠ none ∧ booted.opt = none ∧ OptLenOk State.reset ∧ OptLenOk booted
      ∧ OptLenOk { booted with fidin := some 0#8 } ∧ booted.rx = none
      ∧ Instr.frameRespSysinfo ∈
          [Instr.dsysinfo, .dlastpkt, .drepeat, .frameRespSysinfo, .frameRespLastpkt, .frameRespRepeated]
      ∧ OptLenOk { pending 0 [] with cs := none } ∧ LengthDrawOk { pending 0 [] with cs := none }
      ∧ ({ pending 0 [] with cs := none } : State).rxstate = .framePending
      ∧ ∃ bytes reads, (pending 0 []).env.readData = (booted.params.drvOk, bytes) :: reads :=
  ⟨rfl, by decide, rfl, by decide, rfl, optLenOk_of_check (by decide), optLenOk_of_check (by decide),
   optLenOk_of_check rfl, rfl, by decide, optLenOk_of_check rfl, fun n h => by cases h; decide, rfl, _, _, rfl⟩

theorem witness_MalformedOptFaults :
    ({ booted with opt := some (zeros 256) } : State).opt = some (zeros 256) ∧ 255 < (zeros 256).len.toNat
      ∧ 2 ≤ (0x2#4).toNat ∧ (0x2#4).toNat ≤ 0xB ∧ 2 ≤ (0xB#4).toNat ∧ (0xB#4).toNat ≤ 0xB := by decide

theorem witness_RequestsRefused :
    ({ booted with inputs := [.request .interrupt 0x6#4 []] } : State).inputs = .request .interrupt 0x6#4 [] :: []
      ∧ booted.boot = .ready ∧ Context.interrupt = .interrupt ∧ State.reset.boot = .notBooted
      ∧ ({ State.reset with boot := .failed } : State).boot = .failed := ⟨rfl, rfl, rfl, rfl, rfl⟩

/-- The lengths where the clauses meet: 255 and 256 bytes of OPT, 65535 and 65536 bytes of OPT, RX_CAP bytes of RXBUF and one more. -/
theorem witness_HostWrites :
    booted.boot = .ready ∧ ({ booted with inputs := [.writeFidin 0#8] } : State).inputs = .writeFidin 0#8 :: []
      ∧ (List.replicate 255 0#8).length ≤ 255 ∧ 255 < (List.replicate 256 0#8).length ∧ (List.replicate 256 0#8).length < 65536
      ∧ 255 < (List.replicate 65535 0#8).length ∧ (List.replicate 65535 0#8).length < 65536
      ∧ 65536 ≤ (List.replicate 65536 0#8).length
      ∧ (List.replicate 267 0#8).length ≤ booted.params.rxCap ∧ (List.replicate 267 0#8).length < 65536
      ∧ booted.params.rxCap < (List.replicate 268 0#8).length := by
  refine ⟨rfl, rfl, ?_, ?_, ?_, ?_, ?_, ?_, ?_, ?_, ?_⟩ <;> rw [List.length_replicate] <;> decide

theorem witness_HostReads :
    booted.boot = .ready ∧ ({ booted with inputs := [.read .cs] } : State).inputs = .read .cs :: [] ∧ hostRead booted .cs ≠ none
      ∧ hostRead booted .fid = none ∧ booted.fid = none ∧ booted.fidin = none ∧ booted.tx = none ∧ booted.rx = none
      ∧ booted.opt = none ∧ booted.telemetry = none ∧ booted.packet = none ∧ booted.drvcode = none
      ∧ (holding t1).opt = some (Buf.ofBytes t1) ∧ (Buf.ofBytes t1).len.toNat ≤ 255
      ∧ ({ booted with fid := some 0x10#8 } : State).fid = some 0x10#8
      ∧ ({ booted with telemetry := some (SysInfo.build fun _ => 0#32) } : State).telemetry = some (SysInfo.build fun _ => 0#32) := by
  decide

/-- ENCODE at both ends of the length of optional data: none, one byte, 255 bytes and 256 bytes. -/
theorem witness_EncodeResult :
    ({ booted with fidin := some 0x11#8, opt := some (zeros 255) } : State).cs = some station
      ∧ ({ booted with fidin := some 0x11#8, opt := some (zeros 255) } : State).fidin = some 0x11#8
      ∧ ({ booted with fidin := some 0x11#8, opt := some (zeros 255) } : State).opt = some (zeros 255)
      ∧ (zeros 255).len.toNat ≤ 255 ∧ (zeros 255).len.toNat ≠ 0 ∧ (zeros 1).len.toNat ≤ 255 ∧ (zeros 0).len.toNat = 0
      ∧ 255 < (zeros 256).len.toNat ∧ station.len.toNat + 257 < 65536 := by decide

/-- 256 bytes, one above the limit, with FIDIN never written. -/
theorem witness_EncodeSizeError :
    ({ booted with opt := some (zeros 256) } : State).opt = some (zeros 256) ∧ 255 < (zeros 256).len.toNat := by decide

/-- D2, D13, D5, D8, D6 and D10: each clause of DECODE at its boundary. -/
theorem witness_DecodeResult :
    (receiving fossasat).cs = some station ∧ OptLenOk (receiving fossasat)
      ∧ (Buf.ofBytes fossasat).len.toNat < station.len.toNat + 1
      ∧ (∃ k, k < station.len.toNat ∧ (Buf.ofBytes (fossasat.take 9 ++ [0x32#8, 0x10#8])).mem.read k ≠ station.mem.read k)
      ∧ station.len.toNat + 1 ≤ (Buf.ofBytes (fossasat ++ [0x10#8])).len.toNat
      ∧ (∀ k, k < station.len.toNat → (Buf.ofBytes (fossasat ++ [0x10#8])).mem.read k = station.mem.read k)
      ∧ (Buf.ofBytes (fossasat ++ [0x10#8])).len.toNat = station.len.toNat + 1
      ∧ station.len.toNat + 2 ≤ (Buf.ofBytes (fossasat ++ [0x11#8, 0x01#8])).len.toNat
      ∧ (Buf.ofBytes (fossasat ++ [0x11#8, 0x01#8])).len.toNat
          < station.len.toNat + 2 + ((Buf.ofBytes (fossasat ++ [0x11#8, 0x01#8])).mem.read (station.len.toNat + 1)).toNat
      ∧ station.len.toNat + 2 + ((Buf.ofBytes (fossasat ++ [0x10#8, 0x00#8])).mem.read (station.len.toNat + 1)).toNat
          ≤ (Buf.ofBytes (fossasat ++ [0x10#8, 0x00#8])).len.toNat := by
  refine ⟨rfl, optLenOk_of_check rfl, by decide, ⟨9, by decide, by decide⟩, by decide, ?_, by decide, by decide, by decide,
    by decide⟩
  decide

theorem witness_FrameRoundTrip :
    ({ holding [0x7A#8] with fidin := some 0x10#8 } : State).cs = some station
      ∧ ({ holding [0x7A#8] with fidin := some 0x10#8 } : State).fidin = some 0x10#8
      ∧ (holding [0x7A#8]).opt = some (Buf.ofBytes [0x7A#8]) ∧ (Buf.ofBytes [0x7A#8]).len.toNat ≤ 255
      ∧ station.len.toNat + 257 < 65536 ∧ (receiving (fossasat ++ [0x10#8, 0x01#8, 0x7A#8])).cs = some station
      ∧ OptLenOk (receiving (fossasat ++ [0x10#8, 0x01#8, 0x7A#8])) :=
  ⟨rfl, rfl, rfl, by decide, by decide, rfl, optLenOk_of_check rfl⟩

/-- Two runs of ENCODE on one callsign, completed, with one frame. -/
theorem witness_EncodeInjective :
    ∃ (t : State) (b : Buf), exec .encode { holding [0x7A#8] with fidin := some 0x10#8 } = .next t ∧ t.tx = some b
      ∧ (holding [0x7A#8]).cs = some station ∧ (holding [0x7A#8]).opt = some (Buf.ofBytes [0x7A#8])
      ∧ (Buf.ofBytes [0x7A#8]).len.toNat ≤ 255 ∧ station.len.toNat + 257 < 65536 :=
  ⟨_, _, rfl, rfl, rfl, rfl, by decide, by decide⟩

/-- Fourteen and fifteen bytes under the default layout. -/
theorem witness_SysinfoResult :
    (holding t1).opt = some (Buf.ofBytes t1) ∧ (Buf.ofBytes t1).len.toNat ≤ 255
      ∧ sysinfoLen booted.params.layout ≤ (Buf.ofBytes t1).len.toNat
      ∧ (Buf.ofBytes (t1.take 14)).len.toNat < sysinfoLen booted.params.layout := by decide

theorem witness_SysinfoExact :
    ∃ t r, layoutLegal (holding t1).params.layout = true ∧ (holding t1).opt = some (Buf.ofBytes t1)
      ∧ exec .dsysinfo (holding t1) = .next t ∧ t.telemetry = some r := ⟨_, _, by decide, rfl, rfl, rfl⟩

theorem witness_PhysicalValues :
    ∃ t r, layoutLegal (holding t1).params.layout = true ∧ (holding t1).opt = some (Buf.ofBytes t1)
      ∧ exec .dsysinfo (holding t1) = .next t ∧ t.telemetry = some r := witness_SysinfoExact

/-- T1 and T3: two payloads that agree on the first fifteen bytes; K1. -/
theorem witness_TelemetryDeterminism :
    (holding t1).opt = some (Buf.ofBytes t1) ∧ (holding (t1 ++ [0x99#8])).opt = some (Buf.ofBytes (t1 ++ [0x99#8]))
      ∧ (Buf.ofBytes t1).len.toNat ≤ 255 ∧ (Buf.ofBytes (t1 ++ [0x99#8])).len.toNat ≤ 255
      ∧ (holding t1).params.layout = (holding (t1 ++ [0x99#8])).params.layout
      ∧ sysinfoLen booted.params.layout ≤ (Buf.ofBytes t1).len.toNat
      ∧ sysinfoLen booted.params.layout ≤ (Buf.ofBytes (t1 ++ [0x99#8])).len.toNat
      ∧ (∀ k, k < sysinfoLen booted.params.layout → (Buf.ofBytes t1).mem.read k = (Buf.ofBytes (t1 ++ [0x99#8])).mem.read k)
      ∧ (Buf.ofBytes [0x28#8, 0x10#8]).len.toNat = 2 := by decide

theorem witness_DefaultLayoutRanges :
    ∃ t r, (holding t1).params.layout = Config.defaultLayout ∧ exec .dsysinfo (holding t1) = .next t
      ∧ t.telemetry = some r := ⟨_, _, rfl, rfl, rfl⟩

/-- One byte, two bytes, three bytes. -/
theorem witness_LastpktResult :
    (holding [0x28#8]).opt = some (Buf.ofBytes [0x28#8]) ∧ (Buf.ofBytes [0x28#8]).len.toNat ≤ 255
      ∧ (Buf.ofBytes [0x28#8]).len.toNat < 2 ∧ (Buf.ofBytes [0x28#8, 0x10#8]).len.toNat = 2
      ∧ 2 < (Buf.ofBytes [0x28#8, 0x10#8, 0x00#8]).len.toNat := by decide

theorem witness_RepeatResult :
    (holding []).opt = some (Buf.ofBytes []) ∧ (Buf.ofBytes []).len.toNat ≤ 255 ∧ (zeros 255).len.toNat ≤ 255 := by decide

theorem witness_ShortPayloads :
    (holding (t1.take 14)).opt = some (Buf.ofBytes (t1.take 14)) ∧ (Buf.ofBytes (t1.take 14)).len.toNat ≤ 255
      ∧ (Buf.ofBytes (t1.take 14)).len.toNat + 1 = sysinfoLen booted.params.layout
      ∧ (Buf.ofBytes [0x28#8]).len.toNat = 1 := by decide

/-- One bit and its two patterns; sixteen bits at both ends of the positive range. -/
theorem witness_SignExtension : 1 ≤ 1 ∧ 1 < 2 ^ 1 ∧ 0x7FFF < 2 ^ 16 ∧ 0x8000 < 2 ^ 16 ∧ 0xFFFF < 2 ^ 16 := by decide

/-- The line of L9, cut at the cap; a byte before the cut. -/
theorem witness_CollectResult :
    OptLenOk booted ∧ OptLenOk (holding t1) ∧ 31 < 32 ∧ ((List.replicate 33 0x41#8))[31]? = some 0x41#8 :=
  ⟨optLenOk_of_check rfl, optLenOk_of_check rfl, by decide, by decide⟩

theorem witness_PlainSenders :
    booted.cs = some station ∧ station.len.toNat + 257 < 65536 ∧ OptLenOk booted
      ∧ (Instr.sendReqpkt, booted.params.fidCmdLastpkt) ∈
          [(Instr.sendPing, booted.params.fidCmdPing), (Instr.sendReqsys, booted.params.fidCmdSysinfo),
           (Instr.sendReqpkt, booted.params.fidCmdLastpkt)]
      ∧ booted.env.transmit = 0 :: [] ∧ isStatus booted.params 0 = true :=
  ⟨rfl, by decide, optLenOk_of_check rfl, by decide, rfl, by decide⟩

theorem witness_RetransmitSender :
    booted.cs = some station ∧ station.len.toNat + 257 < 65536 ∧ OptLenOk booted ∧ booted.env.transmit = 0 :: []
      ∧ isStatus booted.params 0 = true :=
  ⟨rfl, by decide, optLenOk_of_check rfl, rfl, by decide⟩

theorem witness_CommandFrames :
    (holding []).cs = some station ∧ station.len.toNat + 257 < 65536
      ∧ (Instr.frameCmdPing, booted.params.fidCmdPing) ∈
          [(Instr.frameCmdPing, booted.params.fidCmdPing), (Instr.frameCmdSysinfo, booted.params.fidCmdSysinfo),
           (Instr.frameCmdLastpkt, booted.params.fidCmdLastpkt)]
      ∧ (holding []).opt = some (Buf.ofBytes []) ∧ (Buf.ofBytes []).len.toNat ≤ 255 ∧ (zeros 255).len.toNat ≤ 255
      ∧ ({ booted with opt := some (zeros 256) } : State).opt = some (zeros 256) ∧ 255 < (zeros 256).len.toNat := by decide

theorem witness_IrqEvent :
    ({ booted with im := true } : State).im = true ∧ booted.im = false ∧ (pending 0 []).rxstate ≠ .idle
      ∧ (pending 0 []).im = false ∧ booted.rxstate = .idle := by decide

theorem witness_ReservedCodes :
    Instr.reservedE ∈ [Instr.reserved0, .reservedC, .reservedD, .reservedE, .reservedF] := by decide

theorem witness_PollNothingPending :
    OptLenOk booted ∧ booted.pending = false
      ∧ ({ booted with rxstate := .processing, im := true } : State).pending = false :=
  ⟨optLenOk_of_check rfl, by decide, by decide⟩

/-- A frame of RX_CAP bytes is the longest draw. -/
theorem witness_PollOneNotificationAlwaysIdle :
    (pending 0 []).rxstate = .framePending ∧ (pending 0 []).cs = some station ∧ OptLenOk (pending 0 [])
      ∧ LengthDrawOk { pending 0 [] with env := { answers (0, []) with packetLength := [267] } } :=
  ⟨rfl, rfl, optLenOk_of_check rfl, fun n h => by cases h; decide⟩

/-- A read error, and the packet lengths RX_CAP and RX_CAP + 1 where the two clauses meet. -/
theorem witness_PollReadError :
    (pending 5 []).rxstate = .framePending ∧ OptLenOk (pending 5 []) ∧ (pending 5 []).env.packetLength = 0 :: []
      ∧ (pending 5 []).env.readData = (5, []) :: [] ∧ ([] : List Byte).length = 0 ∧ 5 ≠ (pending 5 []).params.drvOk
      ∧ isStatus (pending 5 []).params 5 = true
      ∧ (List.replicate 267 0#8).length = 267 ∧ 267 ≤ booted.params.rxCap
      ∧ (List.replicate 268 0#8).length = 268 ∧ booted.params.rxCap < 268 :=
  ⟨rfl, optLenOk_of_check rfl, rfl, rfl, rfl, by decide, by decide, List.length_replicate, by decide, List.length_replicate, by decide⟩

/-- P3 for the callsign; an empty frame for Truncated. -/
theorem witness_PollFrameError :
    (pending 0 []).rxstate = .framePending ∧ (pending 0 []).cs = some station ∧ OptLenOk (pending 0 [])
      ∧ (pending 0 []).env.packetLength = 0 :: [] ∧ (pending 0 []).env.readData = (booted.params.drvOk, []) :: []
      ∧ ([] : List Byte).length = 0 ∧ 0 ≤ booted.params.rxCap ∧ 0 < 65536
      ∧ decodeFrame station.bytes [] = .error .truncated
      ∧ decodeFrame station.bytes (fossasat.take 9 ++ [0x32#8, 0x10#8]) = .error .notAddressed :=
  ⟨rfl, rfl, optLenOk_of_check rfl, rfl, rfl, rfl, by decide, by decide, rfl, rfl⟩

/-- P1's pong. -/
theorem witness_PollRunsFrameInstruction :
    (pending 0 (fossasat ++ [0x10#8])).rxstate = .framePending ∧ (pending 0 (fossasat ++ [0x10#8])).cs = some station
      ∧ OptLenOk (pending 0 (fossasat ++ [0x10#8])) ∧ (pending 0 (fossasat ++ [0x10#8])).env.packetLength = 11 :: []
      ∧ (pending 0 (fossasat ++ [0x10#8])).env.readData = (booted.params.drvOk, fossasat ++ [0x10#8]) :: []
      ∧ (fossasat ++ [0x10#8]).length = 11 ∧ 11 ≤ booted.params.rxCap ∧ 11 < 65536
      ∧ decodeFrame station.bytes (fossasat ++ [0x10#8]) = .ok (0x10#8, []) :=
  ⟨rfl, rfl, optLenOk_of_check rfl, rfl, rfl, rfl, by decide, by decide, rfl⟩

theorem witness_SysinfoBranch :
    (holding t1).opt = some (Buf.ofBytes t1) ∧ (Buf.ofBytes t1).len.toNat ≤ 255
      ∧ sysinfoLen booted.params.layout ≤ (Buf.ofBytes t1).len.toNat
      ∧ (Buf.ofBytes (t1.take 14)).len.toNat < sysinfoLen booted.params.layout := witness_SysinfoResult

theorem witness_LastpktBranch :
    (holding [0x28#8]).opt = some (Buf.ofBytes [0x28#8]) ∧ (Buf.ofBytes [0x28#8]).len.toNat ≤ 255
      ∧ (Buf.ofBytes [0x28#8]).len.toNat < 2 ∧ (Buf.ofBytes [0x28#8, 0x10#8]).len.toNat = 2
      ∧ 2 < (Buf.ofBytes [0x28#8, 0x10#8, 0x00#8]).len.toNat := witness_LastpktResult

theorem witness_RepeatedBranch :
    (holding []).opt = some (Buf.ofBytes []) ∧ (Buf.ofBytes []).len.toNat ≤ 255 ∧ (zeros 255).len.toNat ≤ 255 :=
  witness_RepeatResult

theorem witness_RaceFreedom :
    ∃ t, (pending 0 (fossasat ++ [0x10#8])).rxstate = .framePending
      ∧ exec .poll (pending 0 (fossasat ++ [0x10#8])) = .next t := ⟨_, rfl, rfl⟩

/-- The invariant holds of the booted machine, and of it with a frame pending or with an input still to take. -/
theorem witness_Inv_booted (rx : RxState) (inputs : List Event) (h : rx ≠ .processing) :
    Inv { booted with rxstate := rx, inputs := inputs } where
  csWf := fun b hb => by cases hb; decide
  optWf := fun b hb => by cases hb
  txWf := fun b hb => by cases hb
  rxWf := fun _ b hb => by cases hb
  rxMem := fun b hb => by cases hb
  optCap := fun b hb => by cases hb
  configured := fun _ => ⟨(by decide : paramsLegal Config.default = true), rfl⟩
  fresh := fun hb => absurd rfl hb
  mask := ⟨fun hm => absurd hm Bool.false_ne_true, fun hm => absurd hm h⟩
  settled := h
  txLength := fun b hb => by cases hb
  rxCap := fun b hb => by cases hb
  relayed := fun hr => by cases hr
  statusCode := (by decide : isStatusCode 0x0#4)
  driverCode := fun c hc => by cases hc

/-- The edge that is a run's last event, and the last request of a run that ends quiescent. -/
theorem witness_CompleteRunsSettled :
    (∃ t, Inv { booted with rxstate := .idle, inputs := [.edge] }
        ∧ step { booted with rxstate := .idle, inputs := [.edge] } = .next t ∧ Complete t)
      ∧ ∃ t, Inv { booted with rxstate := .idle, inputs := [.request .mainLoop 0x7#4 []] }
        ∧ step { booted with rxstate := .idle, inputs := [.request .mainLoop 0x7#4 []] } = .next t ∧ Complete t :=
  ⟨⟨_, witness_Inv_booted .idle [.edge] (by decide), rfl, rfl⟩, _, witness_Inv_booted .idle _ (by decide), rfl, rfl⟩

theorem witness_StepKeepsInvariant :
    ∃ t, Inv { booted with rxstate := .idle, inputs := [.edge] }
      ∧ step { booted with rxstate := .idle, inputs := [.edge] } = .next t :=
  ⟨_, witness_Inv_booted .idle [.edge] (by decide), rfl⟩

/-- An edge in Idle, and a request in FramePending. -/
theorem witness_RxstateTransitions :
    (∃ t, Inv { booted with rxstate := .idle, inputs := [.edge] }
        ∧ (∀ p, Event.edge ≠ .restart p) ∧ step { booted with rxstate := .idle, inputs := [.edge] } = .next t)
      ∧ ∃ t, Inv { booted with rxstate := .framePending, inputs := [.request .mainLoop 0x6#4 []] }
        ∧ (∀ p, Event.request .mainLoop 0x6#4 [] ≠ .restart p)
        ∧ step { booted with rxstate := .framePending, inputs := [.request .mainLoop 0x6#4 []] } = .next t :=
  ⟨⟨_, witness_Inv_booted .idle [.edge] (by decide), by simp, rfl⟩,
   ⟨_, witness_Inv_booted .framePending _ (by decide), by simp, rfl⟩⟩

theorem witness_HistoriesGrow :
    ∃ t, (∀ p rest, ({ booted with inputs := [.request .mainLoop 0x8#4 []] } : State).inputs ≠ .restart p :: rest)
      ∧ step { booted with inputs := [.request .mainLoop 0x8#4 []] } = .next t := ⟨_, by simp, rfl⟩

theorem witness_ConfigurationImmutable :
    ∃ t, booted.boot = .ready
      ∧ (∀ p rest, ({ booted with inputs := [.request .mainLoop 0x8#4 []] } : State).inputs ≠ .restart p :: rest)
      ∧ step { booted with inputs := [.request .mainLoop 0x8#4 []] } = .next t := ⟨_, rfl, by simp, rfl⟩

theorem witness_PureOperationsFrame :
    ∃ t, isPure .dlastpkt = true ∧ exec .dlastpkt (holding [0x28#8, 0x10#8]) = .next t ∧ Instr.dlastpkt ≠ .encode
      ∧ Instr.dlastpkt ≠ .decode ∧ (∀ line, Instr.dlastpkt ≠ .collect line) ∧ Instr.dlastpkt ≠ .dsysinfo :=
  ⟨_, rfl, rfl, by decide, by decide, by simp, by decide⟩

/-- The two ends of the codes STATUS takes. -/
theorem witness_StatusCodesClosed :
    ∃ t, isStatusCode booted.status ∧ isStatusCode 0x7#4 ∧ isStatusCode 0xF#4 ∧ exec .reserved0 booted = .next t :=
  ⟨_, by decide, by decide, by decide, rfl⟩

/-- An operation that calls nobody, a response row, and a sender. -/
theorem witness_CollaboratorCalls :
    (∃ t, exec .reserved0 booted = .next t ∧ Instr.reserved0.kind ≠ .inbound)
      ∧ (∃ t, exec .frameRespPong booted = .next t ∧ Instr.frameRespPong.kind = .inbound)
      ∧ (∀ i ∈ [Instr.reserved0, .frameRespPong],
          i ≠ .poll ∧ i ≠ .sendPing ∧ i ≠ .sendReqsys ∧ i ≠ .sendReqpkt ∧ ∀ line, i ≠ .sendRetx line)
      ∧ ∃ t, exec .sendPing booted = .next t :=
  ⟨⟨_, rfl, by decide⟩, ⟨_, rfl, rfl⟩, by simp, _, rfl⟩

theorem witness_PresentationForms : 5 ≠ Config.default.drvOk := by decide

/-- One notification of each of the two kinds, and one of another. -/
theorem witness_SilentReading :
    (∃ code, Note.error .frameTruncated 1 = .error .frameTruncated code
        ∨ Note.error .frameTruncated 1 = .error .frameNotAddressed code)
      ∧ (∃ code, Note.error .frameNotAddressed 2 = .error .frameTruncated code
        ∨ Note.error .frameNotAddressed 2 = .error .frameNotAddressed code)
      ∧ ∀ code, Note.ack ≠ .error .frameTruncated code ∧ Note.ack ≠ .error .frameNotAddressed code :=
  ⟨⟨1, .inl rfl⟩, ⟨2, .inr rfl⟩, fun _ => ⟨by simp, by simp⟩⟩

end Sys2Proof.Tests
end

section
/-! SUPPORT. The spec's scope (00_scope.md): little-endian assembly (R12), sign extension (R11), and the step that runs a request
(R14, R90). -/

namespace Sys2Proof.Machine

/-! ## Little-endian assembly -/

/-- The sum of the bytes after the first is 256 times the sum that starts one byte higher: R12's sum read the way `memRead`
recurses. -/
theorem littleEndianSum_succ (m : Memory) (k n : Nat) :
    ((List.range (n + 1)).map fun j => (m.read (k + j)).toNat * 256 ^ j).sum
      = (m.read k).toNat + 256 * ((List.range n).map fun j => (m.read (k + 1 + j)).toNat * 256 ^ j).sum := by
  have tail : ∀ j, (m.read (k + (j + 1))).toNat * 256 ^ (j + 1) = 256 * ((m.read (k + 1 + j)).toNat * 256 ^ j) := fun j => by
    rw [show k + (j + 1) = k + 1 + j by omega]
    ring
  rw [List.range_succ_eq_map, List.map_cons, List.sum_cons, List.map_map, ← List.sum_map_mul_left]
  simp [Function.comp_def, tail]

/-- Settles O31, by induction on the number of bytes, at every offset. -/
theorem littleEndian : Obligations.LittleEndian := by
  intro m k n
  induction n generalizing k with
  | zero => rfl
  | succ n ih => rw [memRead, ih, littleEndianSum_succ]

/-! ## Sign extension -/

/-- The sign bit of a pattern of `n + 1` bits weighs `2^n`: clear, the pattern stands for itself. -/
theorem sext_of_lt {n v : Nat} (h : v < 2 ^ n) : sext (n + 1) v = v := if_pos h

/-- Set, the pattern stands for itself less `2^(n+1)`. -/
theorem sext_of_le {n v : Nat} (h : 2 ^ n ≤ v) : sext (n + 1) v = v - (2 : Int) ^ (n + 1) := if_neg (Nat.not_lt.2 h)

/-- A pattern of `n + 1` bits sign-extends into the two's-complement range of that width (R11, G6). -/
theorem sext_mem_range {n v : Nat} (h : v < 2 ^ (n + 1)) : -(2 : Int) ^ n ≤ sext (n + 1) v ∧ sext (n + 1) v < (2 : Int) ^ n := by
  have hpow : (2 : Int) ^ n = ((2 ^ n : Nat) : Int) := by push_cast; rfl
  rw [Nat.pow_succ] at h
  rcases Nat.lt_or_ge v (2 ^ n) with hclear | hset
  · rw [sext_of_lt hclear, hpow]
    omega
  · rw [sext_of_le hset, pow_succ, hpow]
    omega

/-- Sign extension keeps the pattern modulo `2^n` (R11, G6). -/
theorem sext_emod {n v : Nat} (h : v < 2 ^ n) : sext n v % (2 : Int) ^ n = v := by
  have hv : (v : Int) % (2 : Int) ^ n = v := Int.emod_eq_of_lt (by omega) (by exact_mod_cast h)
  unfold sext
  split
  · exact hv
  · rw [Int.sub_emod_right, hv]

/-- Settles O32: the range from the two values of the sign bit, the congruence since only a multiple of `2^n` is subtracted. -/
theorem signExtension : Obligations.SignExtension := by
  intro n v hn hv
  obtain ⟨m, rfl⟩ := Nat.exists_eq_add_of_le' hn
  obtain ⟨hlow, hhigh⟩ := sext_mem_range hv
  exact ⟨hlow, hhigh, sext_emod hv⟩

/-! ## The step and its event -/

/-- A step takes the oldest event of the queue (log 6). -/
theorem step_of_inputs {s : State} {e : Event} {rest : List Event} (h : s.inputs = e :: rest) :
    step s = acceptEvent e { s with inputs := rest } := by
  rw [step, h]

/-- After boot the block's rules hold of every request, write and read (R220). -/
theorem whenReady_of_ready {s : State} (h : s.boot = .ready) (f : State → Result) : whenReady s f = f s := by
  rw [whenReady, h]

/-- After boot a request from the main loop is exec of the instruction at its command-port code (R14, R90). -/
theorem acceptEvent_request_mainLoop {s : State} (h : s.boot = .ready) (op : BitVec 4) (line : List Byte) :
    acceptEvent (.request .mainLoop op line) s = exec (decodePort op line) s := by
  rw [acceptEvent, whenReady_of_ready h, request]

/-- The decoder reads at the command port exactly the instruction of R90's table. -/
theorem decode_port_eq_ok {p : Config.Params} {op : BitVec 4} {line : List Byte} {i : Instr} :
    decode p (.port op line) = .ok i ↔ decodePort op line = i := by
  rw [decode, Except.ok.injEq]

/-- Settles O4: the step takes the request, and the port's instruction is the one the decoder reads. -/
theorem stepRunsRequest : Obligations.StepRunsRequest := by
  intro s op line rest i hboot hinputs hdecode
  obtain rfl := decode_port_eq_ok.1 hdecode
  rw [step_of_inputs hinputs]
  exact acceptEvent_request_mainLoop (s := { s with inputs := rest }) hboot op line

end Sys2Proof.Machine
end

section
/-! SUPPORT. The state and its invariant (10_state.md): what an operation or a host write that completes can leave in each register,
said once, and derived from it the invariant of R41, the append-only histories (R43, R44), the fixed configuration (R22, R62) and the
codes of STATUS (R29). -/

namespace Sys2Proof.Machine

/-! ## What a completed operation can leave -/

/-- OPT holds bytes in canonical form, within its length register and its capacity of 255 (R24, R50). -/
def OptLoaded (opt : Option Buf) : Prop := ∀ b, opt = some b → b.wf = true ∧ Memory.below 255 b.mem = true

/-- TXBUF holds a frame of the callsign register with at most 255 bytes of optional data (R25, R101). -/
def TxEncoded (cs tx : Option Buf) : Prop :=
  ∀ b, tx = some b → ∃ c fid d, cs = some c ∧ d.length ≤ 255 ∧ b = Buf.ofBytes (encodeFrame c.bytes fid d)

/-- RXBUF holds a packet of at most RX_CAP bytes (R26, R50). -/
def RxReceived (cap : Nat) (rx : Option Buf) : Prop :=
  ∀ b, rx = some b → ∃ k bs, bs.length ≤ cap ∧ b = Buf.received k bs

/-- RV speaks of an OPT that holds at most 255 bytes (R37). -/
def RvHolds (opt : Option Buf) : Prop := ∃ b, opt = some b ∧ b.len.toNat ≤ 255

/-- DRVCODE holds a status of the driver's type (R30, R207). -/
def DrvcodeReturned (p : Config.Params) (drvcode : Option DrvStatus) : Prop :=
  ∀ c, drvcode = some c → isStatus p c = true

/-- What an operation, an edge or a host write that completes can leave of `s` (R34, R209): the configuration as it is, the
histories longer at their ends, and each other register as it was or holding what the rule that writes it allows. -/
structure Completed (s t : State) : Prop where
  params : t.params = s.params := by rfl
  boot : t.boot = s.boot := by rfl
  cs : t.cs = s.cs := by rfl
  opt : t.opt = s.opt ∨ OptLoaded t.opt := by exact .inl rfl
  tx : t.tx = s.tx ∨ TxEncoded s.cs t.tx := by exact .inl rfl
  rx : t.rx = s.rx ∨ RxReceived s.params.rxCap t.rx := by exact .inl rfl
  rv : t.rv = true → (s.rv = true ∧ t.opt = s.opt) ∨ RvHolds t.opt := by exact fun h => .inl ⟨h, rfl⟩
  status : t.status = s.status ∨ isStatusCode t.status := by exact .inl rfl
  drvcode : t.drvcode = s.drvcode ∨ DrvcodeReturned s.params t.drvcode := by exact .inl rfl
  rxstate : (t.rxstate = s.rxstate ∧ t.im = s.im) ∨ (t.rxstate ≠ .processing ∧ t.im = false) := by exact .inl ⟨rfl, rfl⟩
  note : s.note <+: t.note := by exact List.prefix_rfl
  drvlog : s.drvlog <+: t.drvlog := by exact List.prefix_rfl

theorem Completed.refl (s : State) : Completed s s := {}

/-- A fact about a register's old value carries over where the register stands as it was or its rule gives the fact. -/
theorem kept_or {α : Type} {P Q : α → Prop} {a b : α} (h : b = a ∨ Q b) (hold : P a) (hnew : Q b → P b) : P b := by
  rcases h with rfl | h
  · exact hold
  · exact hnew h

/-- A register that two operations in turn leave as it was or write by its rule, both together do. -/
theorem kept_or_trans {α : Type} {P : α → Prop} {a b c : α} (h1 : b = a ∨ P b) (h2 : c = b ∨ P c) : c = a ∨ P c :=
  kept_or (P := fun x => x = a ∨ P x) h2 h1 .inr

theorem Completed.trans {s u t : State} (h1 : Completed s u) (h2 : Completed u t) : Completed s t where
  params := h2.params.trans h1.params
  boot := h2.boot.trans h1.boot
  cs := h2.cs.trans h1.cs
  opt := kept_or_trans h1.opt h2.opt
  tx := kept_or_trans (P := TxEncoded s.cs) h1.tx (h1.cs ▸ h2.tx)
  rx := kept_or_trans (P := RxReceived s.params.rxCap) h1.rx (h1.params ▸ h2.rx)
  rv := fun h => by
    rcases h2.rv h with ⟨hu, ht⟩ | ht
    · exact ht ▸ h1.rv hu
    · exact .inr ht
  status := kept_or_trans h1.status h2.status
  drvcode := kept_or_trans (P := DrvcodeReturned s.params) h1.drvcode (h1.params ▸ h2.drvcode)
  rxstate := by
    rcases h2.rxstate with ⟨hr, hm⟩ | ht
    · rw [hr, hm]
      exact h1.rxstate
    · exact .inr ht
  note := h1.note.trans h2.note
  drvlog := h1.drvlog.trans h2.drvlog

theorem optLoaded_none : OptLoaded none := by simp [OptLoaded]

theorem optLoaded_ofBytes {d : List Byte} (hd : d.length ≤ 255) : OptLoaded (some (Buf.ofBytes d)) := by
  rintro b ⟨⟩
  exact ⟨Buf.wf_ofBytes (by omega), Memory.writeBytes_below d 0 (by omega) rfl⟩

/-- A malformed OPT keeps its length alone (R24, log 2). -/
theorem optLoaded_malformed (n : Len16) : OptLoaded (some { len := n, mem := [] }) := by
  rintro b ⟨⟩
  exact ⟨rfl, rfl⟩

theorem txEncoded_none (cs : Option Buf) : TxEncoded cs none := by simp [TxEncoded]

theorem txEncoded_encodeFrame {cs : Option Buf} {c : Buf} {d : List Byte} (fid : Byte) (hc : cs = some c)
    (hd : d.length ≤ 255) : TxEncoded cs (some (Buf.ofBytes (encodeFrame c.bytes fid d))) := by
  rintro b ⟨⟩
  exact ⟨c, fid, d, hc, hd, rfl⟩

theorem rxReceived_none (cap : Nat) : RxReceived cap none := by simp [RxReceived]

theorem rxReceived_received {cap : Nat} {bs : List Byte} (k : Nat) (h : bs.length ≤ cap) :
    RxReceived cap (some (Buf.received k bs)) := by
  rintro b ⟨⟩
  exact ⟨k, bs, h, rfl⟩

/-! ## Each operation -/

theorem finish_completed {code : BitVec 4} {s t : State} (hcode : isStatusCode code) (h : finish code s = .next t) :
    Completed s t := by
  cases finish_eq_next.1 h
  exact { status := .inr hcode }

theorem encodeOp_completed {s t : State} (h : encodeOp s = .next t) : Completed s t := by
  obtain ⟨o, -, ⟨-, rfl⟩ | ⟨hlen, c, fid, hc, -, rfl⟩⟩ := encodeOp_eq_next h
  · exact { tx := .inr (txEncoded_none _), status := .inr (by decide : isStatusCode stOptTooLong) }
  · exact
      { tx := .inr (txEncoded_encodeFrame fid hc (by simpa using hlen))
        status := .inr (by decide : isStatusCode stOk) }

theorem decodeOp_completed {s t : State} (h : decodeOp s = .next t) : Completed s t := by
  obtain ⟨c, r, -, -, ⟨fid, d, hd, rfl⟩ | ⟨e, -, rfl⟩⟩ := decodeOp_eq_next h
  · exact
      { opt := .inr (optLoaded_ofBytes (length_of_decodeFrame hd))
        rv := nofun
        status := .inr (by decide : isStatusCode stOk) }
  · exact { opt := .inr optLoaded_none, rv := nofun, status := .inr (isStatusCode_frameErrorCode e) }

theorem dsysinfoOp_completed {s t : State} (h : dsysinfoOp s = .next t) : Completed s t := by
  obtain ⟨o, -, -, ⟨-, rfl⟩ | ⟨-, rfl⟩⟩ := dsysinfoOp_eq_next h
  · exact { status := .inr (by decide : isStatusCode stTooShort) }
  · exact { status := .inr (by decide : isStatusCode stOk) }

theorem dlastpktOp_completed {s t : State} (h : dlastpktOp s = .next t) : Completed s t := by
  obtain ⟨o, -, -, ⟨-, rfl⟩ | ⟨-, rfl⟩ | ⟨-, rfl⟩⟩ := dlastpktOp_eq_next h
  · exact { status := .inr (by decide : isStatusCode stTooShort) }
  · exact { status := .inr (by decide : isStatusCode stTooLong) }
  · exact { status := .inr (by decide : isStatusCode stOk) }

theorem drepeatOp_completed {s t : State} (h : drepeatOp s = .next t) : Completed s t := by
  obtain ⟨o, ho, hlen, rfl⟩ := drepeatOp_eq_next h
  exact { rv := fun _ => .inr ⟨o, ho, hlen⟩, status := .inr (by decide : isStatusCode stOk) }

theorem collectOp_completed {line : List Byte} {s t : State} (h : collectOp line s = .next t) : Completed s t := by
  cases finish_eq_next.1 h
  have hlen : (collectLine line).length ≤ 255 := (length_collectLine_le line).trans (by decide)
  exact { opt := .inr (optLoaded_ofBytes hlen), rv := nofun, status := .inr (by decide : isStatusCode stOk) }

theorem buildCommand_completed {fid : Byte} {s t : State} (h : buildCommand fid s = .next t) : Completed s t := by
  have hset : Completed s { s with fidin := some fid, opt := some (Buf.ofBytes []), rv := false } :=
    { opt := .inr (optLoaded_ofBytes (by simp)), rv := nofun }
  exact hset.trans (encodeOp_completed h)

theorem buildRetransmit_completed {s t : State} (h : buildRetransmit s = .next t) : Completed s t := by
  have hset : Completed s { s with fidin := some s.params.fidCmdRetransmit } := {}
  exact hset.trans (encodeOp_completed h)

theorem transmitStep_completed {s t : State} (h : transmitStep s = .next t) : Completed s t := by
  obtain ⟨tx, -, rfl⟩ := transmitStep_eq_next h
  have hstatus : isStatusCode (if (drawTransmit s).1 = s.params.drvOk then stOk else stTransport) := by
    split <;> decide
  exact
    { status := .inr hstatus
      drvcode := .inr (by rintro c ⟨⟩; exact isStatus_drawTransmit s)
      note := List.prefix_append _ _
      drvlog := List.prefix_append _ _ }

/-- Two operations in turn, each leaving what a completed operation can. -/
theorem andThen_completed {o : Result} {f : State → Result} {s t : State} (h : andThen o f = .next t)
    (h1 : ∀ u, o = .next u → Completed s u) (h2 : ∀ u, f u = .next t → Completed u t) : Completed s t := by
  obtain ⟨u, hu, ht⟩ := andThen_eq_next.1 h
  exact (h1 u hu).trans (h2 u ht)

/-- An operation behind the check of OPTLEN (R24). -/
theorem guardOptLen_completed {f : State → Result} {s t : State} (h : guardOptLen s f = .next t)
    (hf : f s = .next t → Completed s t) : Completed s t :=
  hf (guardOptLen_eq_next.1 h).2

/-- A sender of a command without data (R171 to R173). -/
theorem sendCommand_completed {fid : Byte} {s t : State} (h : andThen (buildCommand fid s) transmitStep = .next t) :
    Completed s t :=
  andThen_completed h (fun _ => buildCommand_completed) fun _ => transmitStep_completed

theorem execSendRetx_completed {line : List Byte} {s t : State} (h : execSendRetx line s = .next t) : Completed s t :=
  guardOptLen_completed h fun hs => andThen_completed hs (fun _ => collectOp_completed) fun _ hu =>
    andThen_completed hu (fun _ => buildRetransmit_completed) fun _ => transmitStep_completed

theorem Dispatched.completed {s t : State} (h : Dispatched s t) : Completed s t := by
  obtain ⟨telemetry, packet, rv, status, n, rfl, hstatus, hrv⟩ := h
  refine { rv := fun hr => ?_, status := hstatus, note := List.prefix_append _ _ }
  rcases hrv with rfl | ho
  · exact .inl ⟨hr, rfl⟩
  · exact .inr ho

/-- An edge leaves Processing and the mask as they are, and only unmasked can it set FramePending (R151). -/
theorem irqNext_cases (im : Bool) (rx : RxState) :
    irqNext im rx = rx ∨ (im = false ∧ irqNext im rx = .framePending) := by
  cases im
  · cases rx <;> simp [irqNext]
  · exact .inl (irqNext_masked rx)

theorem execIrq_completed {s t : State} (h : execIrq s = .next t) : Completed s t := by
  cases h
  refine { rxstate := ?_ }
  rcases irqNext_cases s.im s.rxstate with hkept | ⟨him, hset⟩
  · exact .inl ⟨hkept, rfl⟩
  · exact .inr ⟨by simp [hset], him⟩

/-- POLL with a frame pending: P4 to P6 on the state P3 left, then the exit (R152, R160). -/
theorem pollPending_eq_next {s t : State} (hp : s.rxstate = .framePending) (h : pollPending s = .next t) :
    ∃ e u, polledLength s ≤ s.params.rxCap ∧ pollFrame (polledRead s).1 (polledRead s).2 (pulled s e) = .next u
      ∧ t = pollLeave u := by
  obtain ⟨e, heq⟩ := pollPending_eq hp
  rw [heq] at h
  split at h
  · cases h
  · next hcap =>
    obtain ⟨u, hu, ht⟩ := andThen_eq_next.1 h
    cases ht
    exact ⟨e, u, Nat.not_lt.1 hcap, hu, rfl⟩

theorem pollPending_completed {s t : State} (hp : s.rxstate = .framePending) (h : pollPending s = .next t) :
    Completed s t := by
  obtain ⟨e, u, hcap, hu, rfl⟩ := pollPending_eq_next hp h
  obtain ⟨rx, hrx, fid, opt, telemetry, packet, rv, status, n, e', rfl, hstatus, hrv, hopt⟩ :=
    pollFrame_interpreted (s := pulled s e) rfl hu
  obtain ⟨st, e'', -, hleave⟩ := pollLeave_eq
    { pulled s e with rx, fid, opt, telemetry, packet, rv, status, note := (pulled s e).note ++ [n], env := e' }
  rw [hleave]
  refine
    { opt := .inr ?_
      rx := .inr ?_
      rv := fun hr => .inr ((hrv hr).resolve_left nofun)
      status := .inr hstatus
      drvcode := .inr (by rintro c ⟨⟩; exact isStatus_polledRead s)
      rxstate := .inr ⟨nofun, rfl⟩
      note := List.prefix_append _ _
      drvlog := by simp [pulled] }
  · rcases hopt with rfl | rfl | ⟨d, hd, rfl⟩
    · exact optLoaded_none
    · exact optLoaded_none
    · exact optLoaded_ofBytes hd
  · rcases hrx with rfl | ⟨k, rfl⟩
    · exact rxReceived_none _
    · exact rxReceived_received k ((length_polledRead s).trans_le hcap)

theorem pollOp_completed {s t : State} (h : pollOp s = .next t) : Completed s t := by
  unfold pollOp at h
  split at h
  · exact pollPending_completed ‹_› h
  · cases h
    exact .refl s

/-- Every instruction that completes leaves what a completed operation can. -/
theorem exec_completed {i : Instr} {s t : State} (h : exec i s = .next t) : Completed s t := by
  cases i with
  | encode => exact encodeOp_completed h
  | decode => exact guardOptLen_completed h decodeOp_completed
  | dsysinfo => exact dsysinfoOp_completed h
  | dlastpkt => exact dlastpktOp_completed h
  | drepeat => exact drepeatOp_completed h
  | poll => exact guardOptLen_completed h pollOp_completed
  | collect line => exact guardOptLen_completed h collectOp_completed
  | sendPing => exact guardOptLen_completed (show execSendPing s = _ from h) sendCommand_completed
  | sendReqsys => exact guardOptLen_completed (show execSendReqsys s = _ from h) sendCommand_completed
  | sendReqpkt => exact guardOptLen_completed (show execSendReqpkt s = _ from h) sendCommand_completed
  | sendRetx line => exact execSendRetx_completed h
  | reserved0 => exact finish_completed (by decide) h
  | reservedC => exact finish_completed (by decide) h
  | reservedD => exact finish_completed (by decide) h
  | reservedE => exact finish_completed (by decide) h
  | reservedF => exact finish_completed (by decide) h
  | irq => exact execIrq_completed h
  | frameCmdPing => exact buildCommand_completed h
  | frameCmdRetransmit => exact buildRetransmit_completed h
  | frameCmdSysinfo => exact buildCommand_completed h
  | frameCmdLastpkt => exact buildCommand_completed h
  | frameRespPong => exact (execFrameRespPong_dispatched h).completed
  | frameRespRepeated => exact (execFrameRespRepeated_dispatched h).completed
  | frameRespSysinfo => exact (execFrameRespSysinfo_dispatched h).completed
  | frameRespLastpkt => exact (execFrameRespLastpkt_dispatched h).completed
  | frameUnrecognized fid => exact (execFrameUnrecognized_dispatched h).completed

/-! ## Each event -/

theorem writeOpt_completed {bytes : List Byte} {s t : State} (h : writeOpt bytes s = .next t) : Completed s t := by
  unfold writeOpt at h
  split at h
  · cases h
  · split at h <;> cases h
    · exact { opt := .inr (optLoaded_malformed _), rv := nofun }
    · exact { opt := .inr (optLoaded_ofBytes (Nat.not_lt.1 ‹_›)), rv := nofun }

theorem writeRxbuf_completed {bytes : List Byte} {s t : State} (h : writeRxbuf bytes s = .next t) : Completed s t := by
  unfold writeRxbuf at h
  split at h
  · cases h
  · next hfits =>
    obtain ⟨hcap, hlen⟩ := not_or.1 hfits
    cases h
    rw [← Buf.received_eq (k := 0) (Nat.not_le.1 hlen)]
    exact { rx := .inr (rxReceived_received 0 (Nat.not_lt.1 hcap)) }

theorem request_completed {ctx : Context} {op : BitVec 4} {line : List Byte} {s t : State}
    (h : request ctx op line s = .next t) : Completed s t := by
  cases ctx with
  | mainLoop => exact exec_completed h
  | interrupt => cases h

theorem acceptDriverCall_eq_next {ctx : Context} {s t : State} (h : acceptDriverCall ctx s = .next t) : t = s := by
  cases ctx with
  | mainLoop => cases h; rfl
  | interrupt => cases h

theorem whenReady_eq_next {f : State → Result} {s t : State} (h : whenReady s f = .next t) :
    s.boot = .ready ∧ f s = .next t := by
  cases hb : s.boot with
  | ready => exact ⟨rfl, by rwa [whenReady_of_ready hb] at h⟩
  | notBooted => simp [whenReady, hb] at h
  | failed => simp [whenReady, hb] at h

/-- An event the block takes after boot only. -/
theorem whenReady_completed {f : State → Result} {s t : State} (h : whenReady s f = .next t)
    (hf : f s = .next t → Completed s t) : s.boot = .ready ∧ Completed s t :=
  (whenReady_eq_next h).imp_right hf

/-- What an accepted event can do: start the process again (R215), boot it (R220), nothing before the end of the boot sequence
(R195), or after it what a completed operation can. -/
theorem acceptEvent_cases {e : Event} {s t : State} (h : acceptEvent e s = .next t) :
    (∃ p, e = .restart p ∧ t = State.resetWith p s.inputs s.env)
      ∨ (∃ radioOk, e = .boot radioOk ∧ bootSequence radioOk s = .next t)
      ∨ (s.boot ≠ .ready ∧ t = s)
      ∨ (s.boot = .ready ∧ Completed s t) := by
  cases e with
  | restart p => cases h; exact .inl ⟨p, rfl, rfl⟩
  | boot radioOk => exact .inr (.inl ⟨radioOk, rfl, h⟩)
  | edge =>
    rw [acceptEvent, acceptEdge] at h
    split at h
    · exact .inr (.inr (.inr ⟨‹_›, exec_completed h⟩))
    · cases h
      exact .inr (.inr (.inl ⟨‹_›, rfl⟩))
  | request ctx op line => exact .inr (.inr (.inr (whenReady_completed h request_completed)))
  | writeFidin b =>
    rw [acceptEvent] at h
    exact .inr (.inr (.inr (whenReady_completed h fun hu => by cases hu; exact {})))
  | writeOpt bytes => exact .inr (.inr (.inr (whenReady_completed h writeOpt_completed)))
  | writeRxbuf bytes => exact .inr (.inr (.inr (whenReady_completed h writeRxbuf_completed)))
  | writeOther r =>
    rw [acceptEvent] at h
    exact .inr (.inr (.inr (whenReady_completed h nofun)))
  | read r => exact .inr (.inr (.inr (whenReady_completed h fun hu => by cases hu; exact .refl s)))
  | driverCall ctx => exact .inr (.inr (.inr (whenReady_completed h fun hu => acceptDriverCall_eq_next hu ▸ .refl s)))

/-- What a step can do: wait, or accept the oldest event. -/
theorem step_eq_next {s t : State} (h : step s = .next t) :
    (s.inputs = [] ∧ t = s) ∨ ∃ e rest, s.inputs = e :: rest ∧ acceptEvent e { s with inputs := rest } = .next t := by
  cases hi : s.inputs with
  | nil =>
    rw [step, hi] at h
    cases h
    exact .inl ⟨rfl, rfl⟩
  | cons e rest => exact .inr ⟨e, rest, rfl, step_of_inputs hi ▸ h⟩

/-- What a boot sequence that completes leaves: a legal configuration in CS, and the block ready or never started (R220, R221). -/
theorem bootSequence_eq_next {radioOk : Bool} {s t : State} (h : bootSequence radioOk s = .next t) :
    s.boot = .notBooted ∧ paramsLegal s.params = true
      ∧ ((∃ st e, t = { s with
            cs := some (Buf.ofBytes s.params.callsign), boot := .ready, rxstate := .idle, im := false, env := e,
            drvlog := s.drvlog ++ [.registerInterruptCallback, .startReceive st] })
        ∨ t = { s with cs := some (Buf.ofBytes s.params.callsign), boot := .failed }) := by
  cases hb : s.boot with
  | ready => simp [bootSequence, hb] at h
  | failed => simp [bootSequence, hb] at h
  | notBooted =>
    simp only [bootSequence, hb] at h
    split_ifs at h with hcs hcap hfid hlay hradio <;> cases h
    · refine ⟨rfl, by simp_all [paramsLegal], .inl ⟨(drawStart s).1, (drawStart s).2.env, ?_⟩⟩
      simp [pollRearm, logCall, drawStart]
    · exact ⟨rfl, by simp_all [paramsLegal], .inr rfl⟩

/-! ## The invariant of R41 -/

/-- The invariant speaks of no event still to come. -/
theorem Inv.with_inputs {s : State} (h : Inv s) (rest : List Event) : Inv { s with inputs := rest } := by
  cases h
  constructor <;> assumption

/-- The invariant holds right after reset, under any parameters (R42). -/
theorem inv_resetWith (p : Config.Params) (inputs : List Event) (env : Env) : Inv (State.resetWith p inputs env) where
  csWf := nofun
  optWf := nofun
  txWf := nofun
  rxWf := nofun
  rxMem := nofun
  optCap := nofun
  configured := nofun
  fresh := fun _ => by simp [State.resetWith]
  mask := by simp [State.resetWith]
  settled := nofun
  txLength := nofun
  rxCap := nofun
  relayed := nofun
  statusCode := (by decide : isStatusCode 0x0#4)
  driverCode := nofun

/-- Settles O51: the reset state under the default parameters. -/
theorem invariantAtReset : Obligations.InvariantAtReset := inv_resetWith Config.default [] Env.silent

/-- A legal callsign leaves room in 16 bits for the largest frame (log 10). -/
theorem length_callsign_of_paramsLegal {p : Config.Params} (h : paramsLegal p = true) :
    p.callsign.length + 257 < 2 ^ 16 := by
  simp only [paramsLegal, capacitiesLegal, Bool.and_eq_true, decide_eq_true_eq] at h
  obtain ⟨⟨⟨-, -, hroom⟩, -⟩, -⟩ := h
  exact hroom

/-- A frame of a configured callsign fits TXBUF, and TXLEN is its length (R25, R101). -/
theorem TxEncoded.wf_length {p : Config.Params} {cs tx : Option Buf} (hp : paramsLegal p = true)
    (hcs : cs = some (Buf.ofBytes p.callsign)) (h : TxEncoded cs tx) {b : Buf} (hb : tx = some b) :
    b.wf = true ∧ isFrameLength p.callsign.length b.len.toNat := by
  obtain ⟨c, fid, d, hc, hd, rfl⟩ := h b hb
  have hroom := length_callsign_of_paramsLegal hp
  obtain rfl : Buf.ofBytes p.callsign = c := Option.some.inj (hcs.symm.trans hc)
  rw [Buf.bytes_ofBytes (by omega)]
  have hlen := length_encodeFrame_lt fid hd hroom
  refine ⟨Buf.wf_ofBytes hlen, ?_⟩
  rw [Buf.toNat_len_ofBytes hlen]
  exact isFrameLength_encodeFrame fid hd

theorem OptLoaded.bufWf {opt : Option Buf} (h : OptLoaded opt) : bufWf opt := fun b hb => (h b hb).1

/-- A packet that RXLEN counts is listed within RXLEN (R26, log 10). -/
theorem RxReceived.bufWf {cap : Nat} {rx : Option Buf} (h : RxReceived cap rx) (hcap : cap < 2 ^ 16) : bufWf rx := by
  intro b hb
  obtain ⟨k, bs, hlen, rfl⟩ := h b hb
  have hfits := hlen.trans_lt hcap
  rw [Buf.received_eq hfits]
  exact Buf.wf_ofBytes hfits

/-- A packet is within the capacity of RXBUF, and RXLEN is (R26, R50). -/
theorem RxReceived.within {cap : Nat} {rx : Option Buf} (h : RxReceived cap rx) {b : Buf} (hb : rx = some b) :
    (b.mem.wf = true ∧ Memory.below cap b.mem = true) ∧ b.len.toNat ≤ cap := by
  obtain ⟨k, bs, hlen, rfl⟩ := h b hb
  exact and_assoc.2 (Buf.received_mem hlen)

/-- The boot sequence keeps the invariant: every register but CS was as reset left it (R220). -/
theorem bootSequence_keeps_inv {radioOk : Bool} {s t : State} (hi : Inv s) (h : bootSequence radioOk s = .next t) : Inv t := by
  obtain ⟨hb, hp, ht⟩ := bootSequence_eq_next h
  have hroom := length_callsign_of_paramsLegal hp
  have hcs : bufWf (some (Buf.ofBytes s.params.callsign)) := by
    rintro b ⟨⟩
    exact Buf.wf_ofBytes (by omega)
  rcases ht with ⟨st, e, rfl⟩ | rfl
  · exact { hi with
      csWf := hcs, configured := fun _ => ⟨hp, rfl⟩, fresh := fun hne => absurd rfl hne, mask := by simp, settled := nofun }
  · exact { hi with csWf := hcs, configured := nofun, fresh := fun _ => hi.fresh (by simp [hb]) }

/-- Outside POLL the mask is set exactly in Processing, which is never left behind (R32, R41 I5). -/
theorem Completed.mask_settled {s t : State} (hi : Inv s) (h : Completed s t) :
    (t.im = true ↔ t.rxstate = .processing) ∧ t.rxstate ≠ .processing := by
  rcases h.rxstate with ⟨hstate, hmask⟩ | ⟨hstate, hmask⟩
  · rw [hstate, hmask]
    exact ⟨hi.mask, hi.settled⟩
  · simp [hstate, hmask]

/-- RV still speaks of a valid OPT: where it was set before, OPT is as it was (R37). -/
theorem Completed.relayed {s t : State} (hi : Inv s) (h : Completed s t) (hrv : t.rv = true) : RvHolds t.opt := by
  rcases h.rv hrv with ⟨hbefore, hopt⟩ | hnow
  · rw [hopt]
    exact hi.relayed hbefore
  · exact hnow

/-- A completed operation keeps the invariant of a booted machine: each register keeps its part, or its rule gives it. -/
theorem Completed.keeps_inv {s t : State} (hi : Inv s) (hr : s.boot = .ready) (h : Completed s t) : Inv t := by
  obtain ⟨hp, hcs⟩ := hi.configured hr
  obtain ⟨hmask, hsettled⟩ := h.mask_settled hi
  exact
    { csWf := h.cs ▸ hi.csWf
      optWf := kept_or (P := bufWf) h.opt hi.optWf OptLoaded.bufWf
      txWf := kept_or (P := bufWf) h.tx hi.txWf fun hx b hb => (hx.wf_length hp hcs hb).1
      rxWf := by
        rw [h.params]
        exact fun hcap => kept_or (P := bufWf) h.rx (hi.rxWf hcap) fun hx => hx.bufWf hcap
      rxMem := by
        rw [h.params]
        exact kept_or (P := fun rx => ∀ b, rx = some b → b.mem.wf = true ∧ Memory.below s.params.rxCap b.mem = true) h.rx
          hi.rxMem fun hx b hb => (hx.within hb).1
      optCap := kept_or (P := fun opt => ∀ b, opt = some b → Memory.below 255 b.mem = true) h.opt hi.optCap
        fun ho b hb => (ho b hb).2
      configured := fun _ => by
        rw [h.params, h.cs]
        exact ⟨hp, hcs⟩
      fresh := fun hne => absurd (h.boot.trans hr) hne
      mask := hmask
      settled := hsettled
      txLength := by
        rw [h.params]
        exact kept_or (P := fun tx => ∀ b, tx = some b → isFrameLength s.params.callsign.length b.len.toNat) h.tx
          hi.txLength fun hx b hb => (hx.wf_length hp hcs hb).2
      rxCap := by
        rw [h.params]
        exact kept_or (P := fun rx => ∀ b, rx = some b → b.len.toNat ≤ s.params.rxCap) h.rx hi.rxCap
          fun hx b hb => (hx.within hb).2
      relayed := h.relayed hi
      statusCode := kept_or (P := fun code => isStatusCode code) h.status hi.statusCode id
      driverCode := by
        rw [h.params]
        exact kept_or (P := DrvcodeReturned s.params) h.drvcode hi.driverCode id }

theorem acceptEvent_keeps_inv {e : Event} {s t : State} (hi : Inv s) (h : acceptEvent e s = .next t) : Inv t := by
  rcases acceptEvent_cases h with ⟨p, -, rfl⟩ | ⟨radioOk, -, hboot⟩ | ⟨-, rfl⟩ | ⟨hr, hc⟩
  · exact inv_resetWith p _ _
  · exact bootSequence_keeps_inv hi hboot
  · exact hi
  · exact hc.keeps_inv hi hr

/-- Settles O52: waiting changes nothing, and each event keeps the invariant, whether it restarts the process, boots the block, comes
before the end of boot, or runs on the booted machine. -/
theorem stepKeepsInvariant : Obligations.StepKeepsInvariant := by
  intro s t hi h
  rcases step_eq_next h with ⟨-, rfl⟩ | ⟨e, rest, -, he⟩
  · exact hi
  · exact acceptEvent_keeps_inv (hi.with_inputs rest) he

/-! ## Histories, configuration, status codes -/

/-- The boot sequence adds its calls to DRVLOG and notifies nothing (R220). -/
theorem bootSequence_histories {radioOk : Bool} {s t : State} (h : bootSequence radioOk s = .next t) :
    s.note <+: t.note ∧ s.drvlog <+: t.drvlog := by
  obtain ⟨-, -, ⟨st, e, rfl⟩ | rfl⟩ := bootSequence_eq_next h
  · exact ⟨List.prefix_rfl, List.prefix_append _ _⟩
  · exact ⟨List.prefix_rfl, List.prefix_rfl⟩

/-- Settles O54: only a restart empties the histories; every other event adds at their ends. -/
theorem historiesGrow : Obligations.HistoriesGrow := by
  intro s t hrestart h
  rcases step_eq_next h with ⟨-, rfl⟩ | ⟨e, rest, hin, he⟩
  · exact ⟨List.prefix_rfl, List.prefix_rfl⟩
  rcases acceptEvent_cases he with ⟨p, rfl, -⟩ | ⟨radioOk, -, hboot⟩ | ⟨-, rfl⟩ | ⟨-, hc⟩
  · exact absurd hin (hrestart p rest)
  · exact bootSequence_histories (s := { s with inputs := rest }) hboot
  · exact ⟨List.prefix_rfl, List.prefix_rfl⟩
  · exact ⟨hc.note, hc.drvlog⟩

/-- Settles O55: a second boot is refused, and no completed operation writes the configuration. -/
theorem configurationImmutable : Obligations.ConfigurationImmutable := by
  intro s t hr hrestart h
  rcases step_eq_next h with ⟨-, rfl⟩ | ⟨e, rest, hin, he⟩
  · exact ⟨rfl, rfl, hr⟩
  rcases acceptEvent_cases he with ⟨p, rfl, -⟩ | ⟨radioOk, -, hboot⟩ | ⟨hne, -⟩ | ⟨-, hc⟩
  · exact absurd hin (hrestart p rest)
  · obtain ⟨hb, -⟩ := bootSequence_eq_next hboot
    exact absurd (hr.symm.trans hb) (by decide)
  · exact absurd hr hne
  · exact ⟨hc.cs, hc.params, hc.boot.trans hr⟩

/-- Settles O57: a completed instruction leaves STATUS as it was or writes one of its codes. -/
theorem statusCodesClosed : Obligations.StatusCodesClosed := by
  intro i s t hs h
  rcases (exec_completed h).status with heq | hcode
  · rwa [heq]
  · exact hcode

/-! ## The pure operations -/

theorem isPure_cases {i : Instr} (h : isPure i = true) :
    i = .encode ∨ i = .decode ∨ i = .dsysinfo ∨ i = .dlastpkt ∨ i = .drepeat ∨ ∃ line, i = .collect line := by
  cases i <;> simp [isPure] at h ⊢

/-- Settles O56, operation by operation: each leaves `s` with the registers its rule writes replaced. -/
theorem pureOperationsFrame : Obligations.PureOperationsFrame := by
  intro i s t hpure h
  rcases isPure_cases hpure with rfl | rfl | rfl | rfl | rfl | ⟨line, rfl⟩
  · obtain ⟨o, -, ⟨-, rfl⟩ | ⟨-, c, fid, -, -, rfl⟩⟩ := encodeOp_eq_next h <;> simp
  · obtain ⟨c, r, -, -, ⟨fid, d, -, rfl⟩ | ⟨e, -, rfl⟩⟩ := decodeOp_eq_next (guardOptLen_eq_next.1 h).2 <;> simp
  · obtain ⟨o, -, -, ⟨-, rfl⟩ | ⟨-, rfl⟩⟩ := dsysinfoOp_eq_next h <;> simp
  · obtain ⟨o, -, -, ⟨-, rfl⟩ | ⟨-, rfl⟩ | ⟨-, rfl⟩⟩ := dlastpktOp_eq_next h <;> simp
  · obtain ⟨o, -, -, rfl⟩ := drepeatOp_eq_next h
    simp
  · cases finish_eq_next.1 (guardOptLen_eq_next.1 h).2
    simp

/-! ## Reset -/

/-- Settles O2: the reset state, register by register (R42). -/
theorem resetRegisters : Obligations.ResetRegisters := by
  simp [Obligations.ResetRegisters, State.reset, State.resetWith]

/-! ## Operands that hold no value or are malformed -/

theorem optLenOk_of_none {s : State} (h : s.opt = none) : OptLenOk s := by simp [OptLenOk, h]

theorem withOpt_of_none {s : State} (h : s.opt = none) (f : Buf → Result) :
    withOpt s f = .fault (.invalidOperand .opt) := by
  simp [withOpt, h]

theorem withOpt_of_lt {s : State} {o : Buf} (ho : s.opt = some o) (hlen : 255 < o.len.toNat) (f : Buf → Result) :
    withOpt s f = .fault .optLenAbove255 := by
  simp [withOpt, ho, hlen]

theorem guardOptLen_of_lt {s : State} {o : Buf} (ho : s.opt = some o) (hlen : 255 < o.len.toNat) (f : State → Result) :
    guardOptLen s f = .fault .optLenAbove255 := by
  simp [guardOptLen, optTooLong_of_lt ho hlen]

/-- The operations and response rows that read OPT stop where the operand does (R121, R128, R132, R157 to R159). -/
theorem exec_fault_of_withOpt {s : State} {r : Fault} (h : ∀ f, withOpt s f = .fault r) {i : Instr}
    (hi : i ∈ [Instr.dsysinfo, .dlastpkt, .drepeat, .frameRespSysinfo, .frameRespLastpkt, .frameRespRepeated]) :
    exec i s = .fault r := by
  have hsysinfo : dsysinfoOp s = .fault r := h _
  have hlastpkt : dlastpktOp s = .fault r := h _
  simp only [List.mem_cons, List.not_mem_nil, or_false] at hi
  rcases hi with rfl | rfl | rfl | rfl | rfl | rfl
  · exact hsysinfo
  · exact hlastpkt
  · exact h _
  · rw [exec, execFrameRespSysinfo, hsysinfo, andThen_fault]
  · rw [exec, execFrameRespLastpkt, hlastpkt, andThen_fault]
  · exact h _

theorem encodeOp_of_cs_none {s : State} (hlen : OptLenOk s) (hc : s.cs = none) :
    encodeOp s = .fault (.invalidOperand .cs) := by
  simp [encodeOp, optTooLong_eq_false.2 hlen, hc]

theorem encodeOp_of_fidin_none {s : State} (hlen : OptLenOk s) (hc : s.cs ≠ none) (hf : s.fidin = none) :
    encodeOp s = .fault (.invalidOperand .fidin) := by
  obtain ⟨c, hc⟩ := Option.ne_none_iff_exists'.1 hc
  simp [encodeOp, optTooLong_eq_false.2 hlen, hc, hf]

theorem encodeOp_of_opt_none {s : State} (hc : s.cs ≠ none) (hf : s.fidin ≠ none) (ho : s.opt = none) :
    encodeOp s = .fault (.invalidOperand .opt) := by
  obtain ⟨c, hc⟩ := Option.ne_none_iff_exists'.1 hc
  obtain ⟨fid, hf⟩ := Option.ne_none_iff_exists'.1 hf
  simp [encodeOp, optTooLong_eq_false.2 (optLenOk_of_none ho), hc, hf, ho]

theorem decodeOp_of_cs_none {s : State} (hc : s.cs = none) : decodeOp s = .fault (.invalidOperand .cs) := by
  simp [decodeOp, hc]

theorem decodeOp_of_rx_none {s : State} (hc : s.cs ≠ none) (hr : s.rx = none) :
    decodeOp s = .fault (.invalidOperand .rxbuf) := by
  obtain ⟨c, hc⟩ := Option.ne_none_iff_exists'.1 hc
  simp [decodeOp, hc, hr]

theorem execDecode_of_ok {s : State} (hlen : OptLenOk s) : execDecode s = decodeOp s := guardOptLen_of_ok hlen _

/-- A command frame sets FIDIN and OPT itself, so that CS is the one operand it can miss (R171). -/
theorem buildCommand_of_cs_none {s : State} (fid : Byte) (hc : s.cs = none) :
    buildCommand fid s = .fault (.invalidOperand .cs) :=
  encodeOp_of_cs_none (by rintro o ⟨⟩; simp) hc

theorem buildRetransmit_of_cs_none {s : State} (hlen : OptLenOk s) (hc : s.cs = none) :
    buildRetransmit s = .fault (.invalidOperand .cs) :=
  encodeOp_of_cs_none hlen hc

theorem buildRetransmit_of_opt_none {s : State} (hc : s.cs ≠ none) (ho : s.opt = none) :
    buildRetransmit s = .fault (.invalidOperand .opt) :=
  encodeOp_of_opt_none hc (by simp) ho

/-- A sender of a command without data, past the check of OPTLEN. -/
theorem sendCommand_of_cs_none {s : State} (fid : State → Byte) (hlen : OptLenOk s) (hc : s.cs = none) :
    (guardOptLen s fun s => andThen (buildCommand (fid s) s) transmitStep) = .fault (.invalidOperand .cs) := by
  rw [guardOptLen_of_ok hlen, buildCommand_of_cs_none _ hc, andThen_fault]

/-- SEND_RETX collects its line into OPT first, so that CS is the one operand it can miss (R174). -/
theorem execSendRetx_of_cs_none {s : State} (line : List Byte) (hlen : OptLenOk s) (hc : s.cs = none) :
    execSendRetx line s = .fault (.invalidOperand .cs) := by
  have hcollected : (Buf.ofBytes (collectLine line)).len.toNat ≤ 255 := by
    have h32 := length_collectLine_le line
    rw [Buf.toNat_len_ofBytes (by omega)]
    omega
  have hbuild : buildRetransmit { s with opt := some (Buf.ofBytes (collectLine line)), rv := false, status := stOk }
      = .fault (.invalidOperand .cs) :=
    buildRetransmit_of_cs_none (by rintro o ⟨⟩; exact hcollected) hc
  simp [execSendRetx, guardOptLen_of_ok hlen, collectOp, finish, hbuild]

/-- POLL that has read a frame with DRV_OK decodes it, and DECODE's first operand is CS (R152, R154). -/
theorem execPoll_of_cs_none {s : State} (hlen : OptLenOk s) (hdraw : LengthDrawOk s) (hp : s.rxstate = .framePending)
    (hc : s.cs = none) {bytes : List Byte} {reads : List (DrvStatus × List Byte)}
    (hr : s.env.readData = (s.params.drvOk, bytes) :: reads) : execPoll s = .fault (.invalidOperand .cs) := by
  obtain ⟨e, heq⟩ := pollPending_eq hp
  have hok : (polledRead s).1 = (pulled s e).params.drvOk := by simp [polledRead, hr, pulled]
  have hframe : pollFrame (polledRead s).1 (polledRead s).2 (pulled s e) = .fault (.invalidOperand .cs) := by
    rw [pollFrame, if_pos hok, pollInterpret, decodeOp_of_cs_none (by simpa [pulled] using hc), andThen_fault]
  rw [execPoll, guardOptLen_of_ok hlen, pollOp, if_pos hp, heq, if_neg (Nat.not_lt.2 (polledLength_le hdraw)), hframe,
    andThen_fault]

/-- Settles O14, clause by clause from the operations the instructions run. -/
theorem invalidOperandsFault : Obligations.InvalidOperandsFault := by
  intro s
  refine ⟨encodeOp_of_cs_none, encodeOp_of_fidin_none, encodeOp_of_opt_none, ?_, ?_, ?_, ?_, ?_,
    buildRetransmit_of_cs_none, buildRetransmit_of_opt_none, ?_⟩
  · intro hlen hc
    exact (execDecode_of_ok hlen).trans (decodeOp_of_cs_none hc)
  · intro hlen hc hr
    exact (execDecode_of_ok hlen).trans (decodeOp_of_rx_none hc hr)
  · intro ho i hi
    exact exec_fault_of_withOpt (withOpt_of_none ho) hi
  · intro hlen hc
    refine ⟨fun i hi => ?_, fun line => execSendRetx_of_cs_none line hlen hc⟩
    simp only [List.mem_cons, List.not_mem_nil, or_false] at hi
    rcases hi with rfl | rfl | rfl
    · exact sendCommand_of_cs_none (·.params.fidCmdPing) hlen hc
    · exact sendCommand_of_cs_none (·.params.fidCmdSysinfo) hlen hc
    · exact sendCommand_of_cs_none (·.params.fidCmdLastpkt) hlen hc
  · intro hc i hi
    simp only [List.mem_cons, List.not_mem_nil, or_false] at hi
    rcases hi with rfl | rfl | rfl
    · exact buildCommand_of_cs_none _ hc
    · exact buildCommand_of_cs_none _ hc
    · exact buildCommand_of_cs_none _ hc
  · rintro hlen hdraw hp hc ⟨bytes, reads, hr⟩
    exact execPoll_of_cs_none hlen hdraw hp hc hr

/-- Every port operation but ENCODE stops at OPTLEN above 255, those that do not read OPT too (R24, log 12). -/
theorem exec_port_of_malformed {s : State} {o : Buf} (ho : s.opt = some o) (hlen : 255 < o.len.toNat) (op : BitVec 4)
    (line : List Byte) (hlow : 2 ≤ op.toNat) (hhigh : op.toNat ≤ 0xB) :
    exec (decodePort op line) s = .fault .optLenAbove255 := by
  have hguard := guardOptLen_of_lt ho hlen
  have hread {i : Instr} := exec_fault_of_withOpt (i := i) (withOpt_of_lt ho hlen)
  rw [decodePort]
  interval_cases op.toNat
  · exact hguard _
  · exact hread (i := .dsysinfo) (by simp)
  · exact hread (i := .dlastpkt) (by simp)
  · exact hread (i := .drepeat) (by simp)
  · exact hguard _
  · exact hguard _
  · exact (hguard _ : execSendPing s = _)
  · exact (hguard _ : execSendReqsys s = _)
  · exact (hguard _ : execSendReqpkt s = _)
  · exact (hguard _ : execSendRetx line s = _)

/-- Settles O15: the port operations by their codes, the response rows by the operand they read. -/
theorem malformedOptFaults : Obligations.MalformedOptFaults := by
  intro s o ho hlen
  refine ⟨exec_port_of_malformed ho hlen, fun i hi => exec_fault_of_withOpt (withOpt_of_lt ho hlen) ?_⟩
  exact List.mem_of_mem_drop (i := 3) hi

/-! ## Host reads -/

/-- After boot a host read changes nothing (R56, R209). -/
theorem step_of_read {s : State} {r : RegName} {rest : List Event} (hb : s.boot = .ready)
    (hi : s.inputs = .read r :: rest) : step s = .next { s with inputs := rest } := by
  rw [step_of_inputs hi]
  exact whenReady_of_ready (s := { s with inputs := rest }) hb (acceptRead r)

/-- A flag reads as 1 exactly where it is set. -/
theorem num_toNat_eq_one {b : Bool} : some (RegValue.num b.toNat) = some (.num 1) ↔ b = true := by
  cases b <;> simp

/-- A valid flag reads as 1 exactly where its register holds a value (R21). -/
theorem num_isSome_eq_one {α : Type} {o : Option α} : some (RegValue.num o.isSome.toNat) = some (.num 1) ↔ o ≠ none :=
  num_toNat_eq_one.trans Option.isSome_iff_ne_none

/-- RXSTATE reads as 1 exactly where a frame is pending (R31). -/
theorem num_rxCode_eq_one {rx : RxState} : some (RegValue.num (rxCode rx).toNat) = some (.num 1) ↔ rx = .framePending := by
  cases rx <;> simp [rxCode]

/-- Settles O18: the read as a step, STATUS and the flags by what their numbers mean, and each register by what it holds. -/
theorem hostReads : Obligations.HostReads := by
  intro s r rest hb hi
  refine ⟨step_of_read hb hi, ?_, ?_, ?_, ?_, ?_, ?_, ?_, ?_, rfl, num_isSome_eq_one, num_isSome_eq_one, num_toNat_eq_one,
    num_rxCode_eq_one, ?_, ?_, ?_⟩
  all_goals
    intros
    simp [hostRead, *]

end Sys2Proof.Machine
end

section
/-! SUPPORT. The encodings (30_encoding.md): the function ids and their classes (R77 to R80), decoder and encoder against each other
(R90, R91), the exact values of the telemetry fields (R82, R84), and the command frames in TXBUF (R71, R72). -/

namespace Sys2Proof.Machine

/-! ## The function ids -/

/-- The four command ids (R77). -/
def commandIds (p : Config.Params) : List Byte := [p.fidCmdPing, p.fidCmdRetransmit, p.fidCmdSysinfo, p.fidCmdLastpkt]

/-- The four response ids (R77). -/
def responseIds (p : Config.Params) : List Byte := [p.fidRespPong, p.fidRespRepeated, p.fidRespSysinfo, p.fidRespLastpkt]

/-- The ids are legal where the commands differ from each other, the responses do, and no command id is a response id (R78). -/
theorem fidsLegal_iff {p : Config.Params} :
    fidsLegal p = true ↔ (commandIds p).Nodup ∧ (responseIds p).Nodup ∧ ∀ a ∈ commandIds p, ∀ b ∈ responseIds p, a ≠ b :=
  decide_eq_true_iff.trans (List.nodup_append (l₁ := commandIds p))

/-- Each command id differs from those the decoder tries before it. -/
theorem commandIds_distinct {p : Config.Params} (h : fidsLegal p = true) :
    p.fidCmdRetransmit ≠ p.fidCmdPing
      ∧ (p.fidCmdSysinfo ≠ p.fidCmdPing ∧ p.fidCmdSysinfo ≠ p.fidCmdRetransmit)
      ∧ (p.fidCmdLastpkt ≠ p.fidCmdPing ∧ p.fidCmdLastpkt ≠ p.fidCmdRetransmit ∧ p.fidCmdLastpkt ≠ p.fidCmdSysinfo) := by
  obtain ⟨hd, -, -⟩ := fidsLegal_iff.1 h
  simp only [commandIds, List.nodup_cons, List.mem_cons, List.not_mem_nil, or_false] at hd
  tauto

/-- Each response id differs from those the decoder tries before it. -/
theorem responseIds_distinct {p : Config.Params} (h : fidsLegal p = true) :
    p.fidRespSysinfo ≠ p.fidRespPong
      ∧ (p.fidRespLastpkt ≠ p.fidRespPong ∧ p.fidRespLastpkt ≠ p.fidRespSysinfo)
      ∧ (p.fidRespRepeated ≠ p.fidRespPong ∧ p.fidRespRepeated ≠ p.fidRespSysinfo ∧ p.fidRespRepeated ≠ p.fidRespLastpkt) := by
  obtain ⟨-, hd, -⟩ := fidsLegal_iff.1 h
  simp only [responseIds, List.nodup_cons, List.mem_cons, List.not_mem_nil, or_false] at hd
  tauto

/-- The unrecognized function ids are those that are no response id (R79, R80). -/
theorem isUnrecognized_iff {p : Config.Params} {fid : Byte} : isUnrecognized p fid = true ↔ fid ∉ responseIds p := by
  simp only [isUnrecognized, responseIds, List.mem_cons, List.not_mem_nil, or_false, Bool.and_eq_true, decide_eq_true_eq]
  tauto

/-! ## The classes of the function ids -/

@[simp] theorem classify_fidRespPong (p : Config.Params) : classify p p.fidRespPong = .pong := if_pos rfl

theorem classify_fidRespSysinfo {p : Config.Params} (h : fidsLegal p = true) : classify p p.fidRespSysinfo = .sysinfo := by
  simp [classify, responseIds_distinct h]

theorem classify_fidRespLastpkt {p : Config.Params} (h : fidsLegal p = true) : classify p p.fidRespLastpkt = .lastpkt := by
  simp [classify, responseIds_distinct h]

theorem classify_fidRespRepeated {p : Config.Params} (h : fidsLegal p = true) : classify p p.fidRespRepeated = .repeated := by
  simp [classify, responseIds_distinct h]

theorem classify_of_unrecognized {p : Config.Params} {fid : Byte} (h : isUnrecognized p fid = true) :
    classify p fid = .unrecognized := by
  simp only [isUnrecognized, Bool.and_eq_true, decide_eq_true_eq] at h
  simp [classify, h]

/-- Settles O10: the four response ids by their distinctness, every other byte by failing the four tests. -/
theorem functionIdClasses : Obligations.FunctionIdClasses := by
  intro p h
  refine ⟨?_, ?_, ?_, ?_, fun fid hpong hsysinfo hlastpkt hrepeated => ?_⟩
  · rw [classify_fidRespPong, fclassCode]
  · rw [classify_fidRespSysinfo h, fclassCode]
  · rw [classify_fidRespLastpkt h, fclassCode]
  · rw [classify_fidRespRepeated h, fclassCode]
  · rw [classify_of_unrecognized (by simp [isUnrecognized, *]), fclassCode]

/-- An inbound byte that is no response id decodes to the unrecognized row that carries it (R80). -/
theorem decodeInbound_of_unrecognized {p : Config.Params} {fid : Byte} (h : isUnrecognized p fid = true) :
    decodeInbound p fid = .frameUnrecognized fid := by
  rw [decodeInbound, classify_of_unrecognized h]

/-- Settles O11: no command id is a response id. -/
theorem inboundCommandsUnrecognized : Obligations.InboundCommandsUnrecognized := by
  intro p h fid hfid
  obtain ⟨-, -, hdisjoint⟩ := fidsLegal_iff.1 h
  exact decodeInbound_of_unrecognized (isUnrecognized_iff.2 fun hresp => hdisjoint fid hfid fid hresp rfl)

/-! ## Decoder and encoder -/

/-- Settles O9, code by code. -/
theorem operationCodes : Obligations.OperationCodes :=
  ⟨fun _ => rfl, fun _ => ⟨rfl, rfl, rfl, rfl, rfl, rfl, rfl, rfl, rfl, rfl, rfl, rfl, rfl, rfl, rfl, rfl⟩⟩

theorem decodeOutbound_fidCmdPing (p : Config.Params) : decodeOutbound p p.fidCmdPing = .ok .frameCmdPing := if_pos rfl

theorem decodeOutbound_fidCmdRetransmit {p : Config.Params} (h : fidsLegal p = true) :
    decodeOutbound p p.fidCmdRetransmit = .ok .frameCmdRetransmit := by
  simp [decodeOutbound, commandIds_distinct h]

theorem decodeOutbound_fidCmdSysinfo {p : Config.Params} (h : fidsLegal p = true) :
    decodeOutbound p p.fidCmdSysinfo = .ok .frameCmdSysinfo := by
  simp [decodeOutbound, commandIds_distinct h]

theorem decodeOutbound_fidCmdLastpkt {p : Config.Params} (h : fidsLegal p = true) :
    decodeOutbound p p.fidCmdLastpkt = .ok .frameCmdLastpkt := by
  simp [decodeOutbound, commandIds_distinct h]

/-- Settles O12: a frame row by the distinctness of its id, the unrecognized row by its well-formedness, and a port operation or the
edge, whose code is no parameter, by evaluation. -/
theorem decodeEncodeAgree : Obligations.DecodeEncodeAgree := by
  intro p i h hwf
  cases i with
  | frameCmdPing => exact decodeOutbound_fidCmdPing p
  | frameCmdRetransmit => exact decodeOutbound_fidCmdRetransmit h
  | frameCmdSysinfo => exact decodeOutbound_fidCmdSysinfo h
  | frameCmdLastpkt => exact decodeOutbound_fidCmdLastpkt h
  | frameRespPong => rw [encode, decode, decodeInbound, classify_fidRespPong]
  | frameRespRepeated => rw [encode, decode, decodeInbound, classify_fidRespRepeated h]
  | frameRespSysinfo => rw [encode, decode, decodeInbound, classify_fidRespSysinfo h]
  | frameRespLastpkt => rw [encode, decode, decodeInbound, classify_fidRespLastpkt h]
  | frameUnrecognized fid => rw [encode, decode, decodeInbound_of_unrecognized hwf]
  | _ => rfl

/-- An instruction's encoding arrives where instructions of its kind arrive (R77, R90). -/
theorem kind_encode (p : Config.Params) (i : Instr) : (encode p i).kind = i.kind := by
  cases i <;> rfl

/-- Each of the sixteen codes is the code of the operation it selects (R90, R91), and a code whose operation ignores LINEIN comes with
none. -/
theorem encode_decodePort (p : Config.Params) {op : BitVec 4} {line : List Byte} (h : line = [] ∨ op = 0x7#4 ∨ op = 0xB#4) :
    encode p (decodePort op line) = .port op line := by
  rcases h with rfl | rfl | rfl
  · obtain ⟨code⟩ := op
    fin_cases code <;> rfl
  · rfl
  · rfl

/-- The row of an inbound function id carries that id, as its parameter or as its operand (R77, R79). -/
theorem encode_decodeInbound (p : Config.Params) (fid : Byte) : encode p (decodeInbound p fid) = .inbound fid := by
  unfold decodeInbound classify
  split_ifs with hpong hsysinfo hlastpkt hrepeated
  · rw [encode, hpong]
  · rw [encode, hsysinfo]
  · rw [encode, hlastpkt]
  · rw [encode, hrepeated]
  · rw [encode]

/-- The row of an outbound function id, where there is one, is built with that id (R77). -/
theorem encode_of_decodeOutbound {p : Config.Params} {fid : Byte} {i : Instr} (h : decodeOutbound p fid = .ok i) :
    encode p i = .outbound fid := by
  unfold decodeOutbound at h
  split_ifs at h with hping hretransmit hsysinfo hlastpkt <;> cases h
  · rw [encode, hping]
  · rw [encode, hretransmit]
  · rw [encode, hsysinfo]
  · rw [encode, hlastpkt]

/-- Settles O13, by the four kinds of input. -/
theorem encodeDecodeAgree : Obligations.EncodeDecodeAgree := by
  intro p x i h hline
  have hx : encode p i = x := by
    cases x with
    | port op line => exact decode_port_eq_ok.1 h ▸ encode_decodePort p (hline op line rfl)
    | edge => cases h; rfl
    | inbound fid => cases h; exact encode_decodeInbound p fid
    | outbound fid => exact encode_of_decodeOutbound h
  exact ⟨hx, hx ▸ (kind_encode p i).symm⟩

/-- Settles O39: each reserved row is the one illegal operation (R91). -/
theorem reservedCodes : Obligations.ReservedCodes := by
  intro s i hi
  simp only [List.mem_cons, List.not_mem_nil, or_false] at hi
  rcases hi with rfl | rfl | rfl | rfl | rfl <;> rfl

/-! ## The telemetry fields -/

/-- The raw values of a field of `W` bytes: the two's-complement or the unsigned range of `8 W` bits (R82). -/
def InRawRange (f : Config.Field) (raw : Int) : Prop :=
  if f.signed then -(2 : Int) ^ (8 * f.width - 1) ≤ raw ∧ raw < (2 : Int) ^ (8 * f.width - 1)
  else 0 ≤ raw ∧ raw < (2 : Int) ^ (8 * f.width)

theorem fieldRaw_of_signed {l : Config.Layout} {i : Fin 11} (h : (l.get i).signed = true) (m : Memory) :
    fieldRaw l i m = sext (8 * (l.get i).width) (memRead m (fieldOffset l i) (l.get i).width) := if_pos h

theorem fieldRaw_of_unsigned {l : Config.Layout} {i : Fin 11} (h : ¬ (l.get i).signed = true) (m : Memory) :
    fieldRaw l i m = memRead m (fieldOffset l i) (l.get i).width := if_neg h

/-- Every field of a payload has a value of its raw range (R84). -/
theorem fieldRaw_inRawRange {l : Config.Layout} {i : Fin 11} (hwidth : 1 ≤ (l.get i).width) (m : Memory) :
    InRawRange (l.get i) (fieldRaw l i m) := by
  have hlt : memRead m (fieldOffset l i) (l.get i).width < 2 ^ (8 * (l.get i).width) := by
    rw [Nat.pow_mul]
    exact memRead_lt m _ _
  unfold InRawRange
  split
  · next hsigned =>
    obtain ⟨n, hn⟩ : ∃ n, 8 * (l.get i).width = n + 1 := Nat.exists_eq_add_of_le' (by omega)
    rw [fieldRaw_of_signed hsigned, hn]
    exact sext_mem_range (hn ▸ hlt)
  · next hunsigned =>
    rw [fieldRaw_of_unsigned hunsigned]
    exact ⟨Int.natCast_nonneg _, by exact_mod_cast hlt⟩

/-- Where the products of both ends of a range fit 32 bits, every product of the range does. -/
theorem mul_mem_range_of_ends {a b num : Nat} {raw : Int} (ha : a * num ≤ 2 ^ 31) (hb : b * num < 2 ^ 31)
    (hlow : -(a : Int) ≤ raw) (hhigh : raw ≤ b) : -(2 : Int) ^ 31 ≤ raw * num ∧ raw * num < (2 : Int) ^ 31 := by
  have hnum : 0 ≤ (num : Int) := Int.natCast_nonneg num
  have ha' : (a : Int) * num ≤ 2 ^ 31 := by exact_mod_cast ha
  have hb' : (b : Int) * num < 2 ^ 31 := by exact_mod_cast hb
  constructor
  · calc -(2 : Int) ^ 31 ≤ -(a : Int) * num := by linarith
      _ ≤ raw * num := Int.mul_le_mul_of_nonneg_right hlow hnum
  · exact (Int.mul_le_mul_of_nonneg_right hhigh hnum).trans_lt hb'

/-- `fieldFits` writes the upper end of a range with the subtraction of natural numbers. -/
theorem le_natCast_two_pow_sub_one {n : Nat} {raw : Int} (h : raw < (2 : Int) ^ n) : raw ≤ ((2 ^ n - 1 : Nat) : Int) := by
  have hpow : ((2 ^ n : Nat) : Int) = (2 : Int) ^ n := by push_cast; rfl
  have hpos : 0 < 2 ^ n := Nat.two_pow_pos n
  omega

/-- Where a field fits, the product of each of its raw values fits the 32-bit register (R82, R35). -/
theorem mul_num_mem_range {f : Config.Field} {raw : Int} (hf : fieldFits f = true) (hr : InRawRange f raw) :
    -(2 : Int) ^ 31 ≤ raw * f.num ∧ raw * f.num < (2 : Int) ^ 31 := by
  unfold fieldFits at hf
  unfold InRawRange at hr
  split at hf
  · next hsigned =>
    rw [if_pos hsigned] at hr
    simp only [Bool.and_eq_true, decide_eq_true_eq] at hf
    obtain ⟨hfitsLow, hfitsHigh⟩ := hf
    obtain ⟨hlow, hhigh⟩ := hr
    exact mul_mem_range_of_ends hfitsLow hfitsHigh (by exact_mod_cast hlow) (le_natCast_two_pow_sub_one hhigh)
  · next hunsigned =>
    rw [if_neg hunsigned] at hr
    obtain ⟨hlow, hhigh⟩ := hr
    exact mul_mem_range_of_ends (a := 0) (by simp) (decide_eq_true_iff.1 hf) (by simpa using hlow)
      (le_natCast_two_pow_sub_one hhigh)

theorem SysInfo.get_mem_toList {α : Type} (r : SysInfo α) (i : Fin 11) : r.get i ∈ r.toList := by
  fin_cases i <;> simp [SysInfo.get, SysInfo.toList]

/-- What a legal layout says of each field (R82). -/
theorem field_of_layoutLegal {l : Config.Layout} (h : layoutLegal l = true) (i : Fin 11) :
    1 ≤ (l.get i).width ∧ 0 < (l.get i).den ∧ fieldFits (l.get i) = true := by
  simp only [layoutLegal, Bool.and_eq_true, and_assoc] at h
  obtain ⟨hall, -⟩ := h
  have hfield := List.all_eq_true.1 hall _ (SysInfo.get_mem_toList l i)
  simp only [fieldLegal, Bool.and_eq_true, decide_eq_true_eq, and_assoc] at hfield
  obtain ⟨hwidth, -, -, hden, hfits⟩ := hfield
  exact ⟨hwidth, hden, hfits⟩

/-- Under a legal layout the register holds the product itself (R122, R134). -/
theorem toInt_fieldValue {l : Config.Layout} (h : layoutLegal l = true) (m : Memory) (i : Fin 11) :
    (fieldValue l m i).toInt = fieldRaw l i m * ((l.get i).num : Int) := by
  obtain ⟨hwidth, -, hfits⟩ := field_of_layoutLegal h i
  obtain ⟨hlow, hhigh⟩ := mul_num_mem_range hfits (fieldRaw_inRawRange hwidth m)
  exact BitVec.toInt_ofInt_eq_self (by decide) hlow hhigh

/-- The results of a DSYSINFO that has any are the fields of OPT (R121). -/
theorem telemetry_of_dsysinfoOp {s t : State} {o : Buf} {r : SysInfo Word32} (ho : s.opt = some o)
    (h : dsysinfoOp s = .next t) (hr : t.telemetry = some r) : r = SysInfo.build (fieldValue s.params.layout o.mem) := by
  obtain ⟨o', ho', -, ⟨-, rfl⟩ | ⟨-, rfl⟩⟩ := dsysinfoOp_eq_next h
  · cases hr
  · cases ho.symm.trans ho'
    exact (Option.some.inj hr).symm

/-- Settles O25: each result is a field value, and under a legal layout that is the product. -/
theorem sysinfoExact : Obligations.SysinfoExact := by
  intro s t o r hl ho h hr i
  rw [telemetry_of_dsysinfoOp ho h hr, SysInfo.get_build]
  exact toInt_fieldValue hl o.mem i

/-! ## Physical values -/

/-- The physical value of a field gives its register back when multiplied by `DEN_i` (R84). -/
theorem physicalField_mul_den {l : Config.Layout} (h : layoutLegal l = true) (i : Fin 11) (t : Word32) :
    physicalField l i t * ((l.get i).den : Rat) = (t.toInt : Rat) := by
  obtain ⟨-, hden, -⟩ := field_of_layoutLegal h i
  exact div_mul_cancel₀ _ (by exact_mod_cast hden.ne')

/-- A quarter of a byte (R129). -/
theorem snrDb_range (b : Byte) : 0 ≤ snrDb b ∧ snrDb b ≤ 255 / 4 ∧ 4 * snrDb b = (b.toNat : Rat) := by
  have hlow : (0 : Rat) ≤ b.toNat := Nat.cast_nonneg _
  have hhigh : (b.toNat : Rat) ≤ 255 := by exact_mod_cast Nat.le_of_lt_succ b.isLt
  unfold snrDb
  refine ⟨?_, ?_, ?_⟩ <;> linarith

/-- Minus half of a byte (R130). -/
theorem rssiDbm_range (b : Byte) : -255 / 2 ≤ rssiDbm b ∧ rssiDbm b ≤ 0 ∧ -2 * rssiDbm b = (b.toNat : Rat) := by
  have hlow : (0 : Rat) ≤ b.toNat := Nat.cast_nonneg _
  have hhigh : (b.toNat : Rat) ≤ 255 := by exact_mod_cast Nat.le_of_lt_succ b.isLt
  unfold rssiDbm
  refine ⟨?_, ?_, ?_⟩ <;> linarith

/-- Settles O33: the fields from the exactness of their registers (O25), SNR and RSSI from the range of a byte. -/
theorem physicalValues : Obligations.PhysicalValues := by
  refine ⟨fun s t o r hl ho h hr i => ⟨physicalField_mul_den hl i _, ?_⟩, snrDb_range, rssiDbm_range, ?_, ?_⟩
  · rw [physicalField, sysinfoExact s t o r hl ho h hr i]
    push_cast
    rfl
  · norm_num [snrDb]
  · norm_num [rssiDbm]

/-! ## The command frames -/

/-- A frame in TXBUF is read back as it was built, where the callsign leaves room in TXLEN (R25, log 10). -/
theorem bytes_ofBytes_encodeFrame {c : Buf} (fid : Byte) {d : List Byte} (hd : d.length ≤ 255)
    (hroom : c.len.toNat + 257 < 65536) :
    (Buf.ofBytes (encodeFrame c.bytes fid d)).bytes = encodeFrame c.bytes fid d :=
  Buf.bytes_ofBytes (length_encodeFrame_lt fid hd (by simpa using hroom))

/-- A row without payload: FIDIN, an empty OPT and the frame of callsign and function id (R71, R171). -/
theorem buildCommand_result {s : State} {c : Buf} (hc : s.cs = some c) (hroom : c.len.toNat + 257 < 65536) (fid : Byte) :
    ∃ b o, buildCommand fid s = .next { s with
          fidin := some fid, opt := some o, rv := false, tx := some b, status := 0x0#4 }
      ∧ o.len.toNat = 0 ∧ b.bytes = c.bytes ++ [fid] :=
  ⟨_, _, buildCommand_of fid hc, toNat_len_ofBytes_nil, bytes_ofBytes_encodeFrame (d := []) fid (by simp) hroom⟩

/-- The retransmit row: FIDIN and the frame of the bytes in OPT (R72, R174). -/
theorem buildRetransmit_result {s : State} {c o : Buf} (hc : s.cs = some c) (hroom : c.len.toNat + 257 < 65536)
    (ho : s.opt = some o) (hlen : o.len.toNat ≤ 255) :
    ∃ b, buildRetransmit s = .next { s with fidin := some s.params.fidCmdRetransmit, tx := some b, status := 0x0#4 }
      ∧ b.bytes = encodeFrame c.bytes s.params.fidCmdRetransmit o.bytes :=
  ⟨_, encodeOp_of (s := { s with fidin := some s.params.fidCmdRetransmit }) hc rfl ho hlen,
    bytes_ofBytes_encodeFrame _ (by simpa using hlen) hroom⟩

/-- The retransmit row's size error, whatever CS holds (R103, log 1). -/
theorem buildRetransmit_tooLong {s : State} {o : Buf} (ho : s.opt = some o) (hlen : 255 < o.len.toNat) :
    buildRetransmit s = .next { s with fidin := some s.params.fidCmdRetransmit, tx := none, status := 0x5#4 } :=
  encodeOp_tooLong (s := { s with fidin := some s.params.fidCmdRetransmit }) ho hlen

/-- Settles O37: the three rows without payload are one building of a frame, the retransmit row another. -/
theorem commandFrames : Obligations.CommandFrames := by
  refine ⟨fun s c hc hroom => ⟨fun i fid hi => ?_, fun o => buildRetransmit_result hc hroom⟩,
    fun s o => buildRetransmit_tooLong⟩
  simp only [List.mem_cons, List.not_mem_nil, or_false, Prod.mk.injEq] at hi
  rcases hi with ⟨rfl, rfl⟩ | ⟨rfl, rfl⟩ | ⟨rfl, rfl⟩
  · exact buildCommand_result hc hroom _
  · exact buildCommand_result hc hroom _
  · exact buildCommand_result hc hroom _

end Sys2Proof.Machine
end

section
/-! SUPPORT. The Frame Codec (40_frame_codec.md): the bytes of an encoded frame at each offset (R71, R72, R101), DECODE's checks on
the bytes of the registers (R105, R106), and the round trip between the two (R104, R110). -/

namespace Sys2Proof.Machine

/-! ## The bytes of a buffer register -/

/-- A byte of the sequence a buffer holds is a byte of its memory: the sequence's bounds are the length register's (R50). -/
theorem Buf.read_of_getElem?_bytes {b : Buf} {j : Nat} {v : Byte} (h : b.bytes[j]? = some v) : b.mem.read j = v := by
  have hj : j < b.len.toNat := by simpa using (List.getElem?_eq_some_iff.1 h).1
  exact Option.some.inj ((b.getElem?_bytes hj).symm.trans h)

theorem Buf.getD_bytes (b : Buf) {j : Nat} (h : j < b.len.toNat) (v : Byte) : b.bytes.getD j v = b.mem.read j := by
  rw [List.getD_eq_getElem?_getD, b.getElem?_bytes h, Option.getD_some]

/-- One buffer begins with the bytes of another where their memories agree below the other's length. -/
theorem Buf.take_bytes_eq_iff {c r : Buf} (hle : c.len.toNat ≤ r.len.toNat) :
    r.bytes.take c.len.toNat = c.bytes ↔ ∀ k, k < c.len.toNat → r.mem.read k = c.mem.read k := by
  constructor
  · intro h k hk
    apply Buf.read_of_getElem?_bytes
    rw [← c.getElem?_bytes hk, ← h, List.getElem?_take_of_lt hk]
  · intro h
    apply List.ext_getElem?
    intro k
    by_cases hk : k < c.len.toNat
    · rw [List.getElem?_take_of_lt hk, r.getElem?_bytes (by omega), c.getElem?_bytes hk, h k hk]
    · rw [List.getElem?_eq_none (by simp; omega), List.getElem?_eq_none (by simp; omega)]

/-- A buffer made of the bytes another holds has that other's length and bytes. -/
theorem Buf.ofBytes_bytes (b : Buf) : (Buf.ofBytes b.bytes).len = b.len ∧ (Buf.ofBytes b.bytes).bytes = b.bytes := by
  have hlt : b.bytes.length < 2 ^ 16 := by simpa using b.len.isLt
  exact ⟨BitVec.eq_of_toNat_eq (by rw [Buf.toNat_len_ofBytes hlt, Buf.length_bytes]), Buf.bytes_ofBytes hlt⟩

/-- A buffer made of a slice of another's bytes: its length, and each byte at its offset in the other. -/
theorem Buf.ofBytes_slice {r : Buf} {k n : Nat} (h : k + n ≤ r.len.toNat) :
    (Buf.ofBytes ((r.bytes.drop k).take n)).len.toNat = n
      ∧ ∀ j, j < n → (Buf.ofBytes ((r.bytes.drop k).take n)).mem.read j = r.mem.read (k + j) := by
  have hlen : ((r.bytes.drop k).take n).length = n := by simp; omega
  have hlt : ((r.bytes.drop k).take n).length < 2 ^ 16 := by have := r.len.isLt; omega
  refine ⟨by rw [Buf.toNat_len_ofBytes hlt, hlen], fun j hj => Buf.read_of_getElem?_bytes ?_⟩
  rw [Buf.bytes_ofBytes hlt, List.getElem?_take_of_lt hj, List.getElem?_drop, r.getElem?_bytes (by omega)]

/-! ## The bytes of a frame -/

theorem getElem?_encodeFrame_callsign {cs : List Byte} {k : Nat} (h : k < cs.length) (fid : Byte) (d : List Byte) :
    (encodeFrame cs fid d)[k]? = cs[k]? := List.getElem?_append_left h

theorem getElem?_encodeFrame_fid (cs : List Byte) (fid : Byte) (d : List Byte) :
    (encodeFrame cs fid d)[cs.length]? = some fid := by
  simp [encodeFrame]

theorem getElem?_encodeFrame_length (cs : List Byte) (fid : Byte) {d : List Byte} (hd : d ≠ []) :
    (encodeFrame cs fid d)[cs.length + 1]? = some (BitVec.ofNat 8 d.length) := by
  simp [encodeFrame, hd]

theorem getElem?_encodeFrame_data (cs : List Byte) (fid : Byte) {d : List Byte} (hd : d ≠ []) (k : Nat) :
    (encodeFrame cs fid d)[cs.length + 2 + k]? = d[k]? := by
  have hk : cs.length + 2 + k = cs.length + (k + 1 + 1) := by omega
  rw [hk, encodeFrame, List.getElem?_append_right (Nat.le_add_right _ _), Nat.add_sub_cancel_left, if_neg hd,
    List.getElem?_cons_succ, List.getElem?_cons_succ]

/-- With one callsign, equal frames carry equal contents: DECODE recovers them (R104). -/
theorem encodeFrame_inj {cs : List Byte} {fid fid' : Byte} {d d' : List Byte} (hd : d.length ≤ 255) (hd' : d'.length ≤ 255)
    (h : encodeFrame cs fid d = encodeFrame cs fid' d') : fid = fid' ∧ d = d' := by
  have hdec := decodeFrame_encodeFrame cs fid hd
  rw [h, decodeFrame_encodeFrame cs fid' hd'] at hdec
  cases hdec
  exact ⟨rfl, rfl⟩

/-! ## DECODE's checks on the registers -/

/-- The first check: no room for a callsign and a function id (R105). -/
theorem decodeFrame_of_short {c r : Buf} (h : r.len.toNat < c.len.toNat + 1) :
    decodeFrame c.bytes r.bytes = .error .truncated := by
  simp [decodeFrame, h]

/-- The second check: a byte differs from the callsign (R105). -/
theorem decodeFrame_of_foreign {c r : Buf} (hle : c.len.toNat + 1 ≤ r.len.toNat)
    (h : ∃ k, k < c.len.toNat ∧ r.mem.read k ≠ c.mem.read k) : decodeFrame c.bytes r.bytes = .error .notAddressed := by
  obtain ⟨k, hk, hne⟩ := h
  have hcs : r.bytes.take c.len.toNat ≠ c.bytes := fun heq => hne ((Buf.take_bytes_eq_iff (by omega)).1 heq k hk)
  simp [decodeFrame, Nat.not_lt.2 hle, hcs]

/-- Past the first two checks a frame of the least length carries no data (R105). -/
theorem decodeFrame_of_bare {c r : Buf} (hcs : ∀ k, k < c.len.toNat → r.mem.read k = c.mem.read k)
    (h : r.len.toNat = c.len.toNat + 1) : decodeFrame c.bytes r.bytes = .ok (r.mem.read c.len.toNat, []) := by
  have htake := (Buf.take_bytes_eq_iff (by omega)).2 hcs
  simp only [decodeFrame, Buf.length_bytes, htake, r.getD_bytes (show c.len.toNat < r.len.toNat by omega)]
  rw [if_neg (by omega), if_neg (by simp), if_pos h]

/-- The third check, where the length byte declares `n` bytes of data: all of them have arrived, or the frame is truncated
(R105, R106). -/
theorem decodeFrame_of_declared {c r : Buf} (hcs : ∀ k, k < c.len.toNat → r.mem.read k = c.mem.read k)
    (hle : c.len.toNat + 2 ≤ r.len.toNat) {n : Nat} (hn : (r.mem.read (c.len.toNat + 1)).toNat = n) :
    decodeFrame c.bytes r.bytes =
      if r.len.toNat < c.len.toNat + 2 + n then .error .truncated
      else .ok (r.mem.read c.len.toNat, (r.bytes.drop (c.len.toNat + 2)).take n) := by
  have htake := (Buf.take_bytes_eq_iff (by omega)).2 hcs
  simp only [decodeFrame, Buf.length_bytes, htake, r.getD_bytes (show c.len.toNat < r.len.toNat by omega),
    r.getD_bytes (show c.len.toNat + 1 < r.len.toNat by omega), hn]
  rw [if_neg (by omega), if_neg (by simp), if_neg (by omega)]

/-! ## The operations -/

/-- Settles O20: the size test looks at OPTLEN alone. -/
theorem encodeSizeError : Obligations.EncodeSizeError := fun _ _ => encodeOp_tooLong

/-- Settles O19: TXBUF is a buffer made of the frame, whose bytes are known at each offset. -/
theorem encodeResult : Obligations.EncodeResult := by
  intro s c o fid hc hf ho
  refine ⟨encodeOp_tooLong ho, fun hlen hroom => ⟨_, encodeOp_of hc hf ho hlen, ?_⟩⟩
  have hd : o.bytes.length ≤ 255 := by simpa using hlen
  have hbytes := bytes_ofBytes_encodeFrame fid hd hroom
  have hlt : (encodeFrame c.bytes fid o.bytes).length < 2 ^ 16 := length_encodeFrame_lt fid hd (by simpa using hroom)
  refine ⟨?_, fun k hk => ?_, ?_, fun hne => ?_⟩
  · rw [Buf.toNat_len_ofBytes hlt, length_encodeFrame, Buf.length_bytes, Buf.length_bytes, frameLen]
  · apply Buf.read_of_getElem?_bytes
    rw [hbytes, getElem?_encodeFrame_callsign (by simpa using hk), c.getElem?_bytes hk]
  · apply Buf.read_of_getElem?_bytes
    simpa [hbytes] using getElem?_encodeFrame_fid c.bytes fid o.bytes
  · have hdata : o.bytes ≠ [] := List.ne_nil_of_length_pos (by simpa using Nat.pos_of_ne_zero hne)
    constructor
    · have hread : (Buf.ofBytes (encodeFrame c.bytes fid o.bytes)).mem.read (c.len.toNat + 1) = BitVec.ofNat 8 o.len.toNat := by
        apply Buf.read_of_getElem?_bytes
        simpa [hbytes] using getElem?_encodeFrame_length c.bytes fid hdata
      rw [hread, BitVec.toNat_ofNat, Nat.mod_eq_of_lt (by omega)]
    · intro k hk
      apply Buf.read_of_getElem?_bytes
      simpa [hbytes, o.getElem?_bytes hk] using getElem?_encodeFrame_data c.bytes fid hdata k

/-- Settles O23: equal frames in TXBUF decode to the contents of both runs. -/
theorem encodeInjective : Obligations.EncodeInjective := by
  intro s s' c o o' b b' fid fid' t t' hc hc' hf hf' ho ho' hlen hlen' hroom hrun hrun' htx htx' hbb
  have hd : o.bytes.length ≤ 255 := by simpa using hlen
  have hd' : o'.bytes.length ≤ 255 := by simpa using hlen'
  cases hrun.symm.trans (encodeOp_of hc hf ho hlen)
  cases hrun'.symm.trans (encodeOp_of hc' hf' ho' hlen')
  cases htx
  cases htx'
  rw [bytes_ofBytes_encodeFrame fid hd hroom, bytes_ofBytes_encodeFrame fid' hd' hroom] at hbb
  exact encodeFrame_inj hd hd' hbb

/-- Settles O21: each check decides what the decoder answers, and the decoder's answer decides the state DECODE leaves. -/
theorem decodeResult : Obligations.DecodeResult := by
  intro s c r hc hr hok
  have hexec : exec .decode s = decodeOp s := execDecode_of_ok hok
  rw [hexec]
  refine ⟨fun hshort => decodeOp_error hc hr (decodeFrame_of_short hshort),
    fun hle hne => decodeOp_error hc hr (decodeFrame_of_foreign hle hne), fun _ hcs => ⟨fun hbare => ?_, fun hle => ?_⟩⟩
  · exact ⟨_, decodeOp_ok hc hr (decodeFrame_of_bare hcs hbare), toNat_len_ofBytes_nil⟩
  have hdec := decodeFrame_of_declared hcs hle rfl
  refine ⟨fun hcut => decodeOp_error hc hr (hdec.trans (if_pos hcut)), fun hfull => ?_⟩
  obtain ⟨hlen, hread⟩ := Buf.ofBytes_slice hfull
  exact ⟨_, decodeOp_ok hc hr (hdec.trans (if_neg (Nat.not_lt.2 hfull))), hlen, fun k hk => hread k (hlen ▸ hk)⟩

/-- Settles O22: TXBUF holds the frame as it was built, and the decoder gives a built frame's contents back. -/
theorem frameRoundTrip : Obligations.FrameRoundTrip := by
  intro s c o fid hc hf ho hlen hroom
  have hd : o.bytes.length ≤ 255 := by simpa using hlen
  refine ⟨_, _, encodeOp_of hc hf ho hlen, rfl, fun u huc hux hok => ?_⟩
  have hdec : decodeFrame c.bytes (Buf.ofBytes (encodeFrame c.bytes fid o.bytes)).bytes = .ok (fid, o.bytes) := by
    rw [bytes_ofBytes_encodeFrame fid hd hroom, decodeFrame_encodeFrame c.bytes fid hd]
  exact ⟨_, _, (execDecode_of_ok hok).trans (decodeOp_ok huc hux hdec), rfl, rfl, rfl, o.ofBytes_bytes⟩

end Sys2Proof.Machine
end

section
/-! SUPPORT. The Telemetry Decoder (41_telemetry_decoder.md): where the fields lie in a payload (R82), DSYSINFO and DLASTPKT by the
length of OPT (R121, R128), which payload bytes a result depends on (R136), and the default layout's bound (R134). -/

namespace Sys2Proof.Machine

/-! ## The fields' places in a payload -/

/-- Field `i` stands at index `i` of the list of fields (R35, R82). -/
theorem SysInfo.getElem?_toList {α : Type} (r : SysInfo α) (i : Fin 11) : r.toList[i.val]? = some (r.get i) := by
  fin_cases i <;> rfl

/-- Field `i` ends where the widths of the fields up to and with field `i` add up to (R82). -/
theorem fieldOffset_add_width (l : Config.Layout) (i : Fin 11) :
    fieldOffset l i + (l.get i).width = ((l.toList.take (i.val + 1)).map Config.Field.width).sum := by
  rw [List.take_add_one, SysInfo.getElem?_toList l i]
  simp [fieldOffset]

theorem fieldOffset_succ (l : Config.Layout) (i : Fin 10) :
    fieldOffset l i.succ = fieldOffset l i.castSucc + (l.get i.castSucc).width :=
  (fieldOffset_add_width l i.castSucc).symm

/-- The last field ends with the payload (R82). -/
theorem sysinfoLen_eq (l : Config.Layout) : sysinfoLen l = fieldOffset l 10 + (l.get 10).width :=
  (fieldOffset_add_width l 10).symm

/-- Every field lies within the first SYSINFO_LEN bytes. -/
theorem fieldOffset_add_width_le (l : Config.Layout) (i : Fin 11) : fieldOffset l i + (l.get i).width ≤ sysinfoLen l := by
  rw [fieldOffset_add_width]
  exact ((List.take_sublist _ _).map _).sum_le_sum fun _ _ => Nat.zero_le _

/-! ## The operations by the length of OPT -/

section
variable {s : State} {o : Buf} (ho : s.opt = some o) (hlen : o.len.toNat ≤ 255)
include ho hlen

theorem exec_dsysinfo_of_lt (h : o.len.toNat < sysinfoLen s.params.layout) :
    exec .dsysinfo s = .next { s with telemetry := none, status := stTooShort } :=
  (dsysinfoOp_of ho hlen).trans (if_pos h)

theorem exec_dsysinfo_of_le (h : sysinfoLen s.params.layout ≤ o.len.toNat) :
    exec .dsysinfo s =
      .next { s with telemetry := some (SysInfo.build (fieldValue s.params.layout o.mem)), status := stOk } :=
  (dsysinfoOp_of ho hlen).trans (if_neg (Nat.not_lt.2 h))

theorem exec_dlastpkt_of_lt (h : o.len.toNat < 2) :
    exec .dlastpkt s = .next { s with packet := none, status := stTooShort } :=
  (dlastpktOp_of ho hlen).trans (if_pos h)

theorem exec_dlastpkt_of_gt (h : 2 < o.len.toNat) :
    exec .dlastpkt s = .next { s with packet := none, status := stTooLong } := by
  refine (dlastpktOp_of ho hlen).trans ?_
  rw [if_neg (by omega), if_pos h]

theorem exec_dlastpkt_of_eq (h : o.len.toNat = 2) :
    exec .dlastpkt s =
      .next { s with packet := some { snrq := o.mem.read 0, rssih := o.mem.read 1 }, status := stOk } := by
  refine (dlastpktOp_of ho hlen).trans ?_
  rw [if_neg (by omega), if_neg (by omega)]

end

/-- Settles O28: the three lengths are the three branches of DLASTPKT. -/
theorem lastpktResult : Obligations.LastpktResult := fun _ _ ho hlen =>
  ⟨exec_dlastpkt_of_lt ho hlen, exec_dlastpkt_of_gt ho hlen, exec_dlastpkt_of_eq ho hlen⟩

/-- Settles O29: DREPEAT tests its operand and nothing else. -/
theorem repeatResult : Obligations.RepeatResult := fun _ _ ho hlen => withOpt_of_some ho hlen _

/-- Settles O30: one byte short is a case of too short. -/
theorem shortPayloads : Obligations.ShortPayloads := fun _ _ ho hlen =>
  ⟨fun hshort => ⟨_, exec_dsysinfo_of_lt ho hlen (by omega), rfl, rfl⟩,
    fun hshort => ⟨_, exec_dlastpkt_of_lt ho hlen (by omega), rfl, rfl⟩⟩

/-- Settles O24: the offsets from the places of the fields, the results from the two branches of DSYSINFO; a result's formula is
`fieldValue` written out. -/
theorem sysinfoResult : Obligations.SysinfoResult := by
  refine ⟨fun l => ⟨rfl, fieldOffset_succ l, sysinfoLen_eq l⟩, fun s o ho hlen =>
    ⟨exec_dsysinfo_of_lt ho hlen, fun hfull => ⟨_, exec_dsysinfo_of_le ho hlen hfull, fun i => ?_⟩⟩⟩
  rw [SysInfo.get_build]
  rfl

/-! ## The bytes a result depends on -/

/-- The results are functions of the first SYSINFO_LEN bytes (R136). -/
theorem fieldValue_congr {l : Config.Layout} {m m' : Memory} (h : ∀ k, k < sysinfoLen l → m.read k = m'.read k) :
    fieldValue l m = fieldValue l m' := by
  funext i
  have hend := fieldOffset_add_width_le l i
  have hread : memRead m (fieldOffset l i) (l.get i).width = memRead m' (fieldOffset l i) (l.get i).width :=
    memRead_congr _ _ fun j _ hj => h j (by omega)
  simp only [fieldValue, fieldRaw, hread]

/-- Settles O26: both runs complete, and their results are those of the bytes they share. -/
theorem telemetryDeterminism : Obligations.TelemetryDeterminism := by
  intro s s' o o' ho ho' hlen hlen'
  refine ⟨fun hl hfull hfull' hagree => ?_, fun htwo => ⟨_, exec_dlastpkt_of_eq ho hlen htwo, rfl⟩⟩
  refine ⟨_, _, exec_dsysinfo_of_le ho hlen hfull, exec_dsysinfo_of_le ho' hlen' (hl ▸ hfull'), ?_, rfl⟩
  simp only [← hl, fieldValue_congr hagree]

/-! ## The range of the results -/

/-- A bound on the magnitude of a field's raw values: half the number of its patterns where it is signed, all of them where it is
not (R82). -/
def rawMagnitude (f : Config.Field) : Nat := 2 ^ (8 * f.width - f.signed.toNat)

theorem InRawRange.natAbs_le {f : Config.Field} {raw : Int} (h : InRawRange f raw) : raw.natAbs ≤ rawMagnitude f := by
  unfold InRawRange at h
  unfold rawMagnitude
  zify
  split at h <;> obtain ⟨hlow, hhigh⟩ := h
  · next hsigned =>
    rw [hsigned]
    exact abs_le.2 ⟨hlow, hhigh.le⟩
  · next hunsigned =>
    rw [Bool.eq_false_iff.2 hunsigned, abs_of_nonneg hlow]
    exact hhigh.le

theorem layoutLegal_defaultLayout : layoutLegal Config.defaultLayout = true := by decide

/-- The largest products of R83's layout are those of the charging current and the two-byte temperatures: `2^15 * 10`. -/
theorem rawMagnitude_mul_num_defaultLayout_le :
    ∀ i : Fin 11, rawMagnitude (Config.defaultLayout.get i) * (Config.defaultLayout.get i).num ≤ 327680 := by
  decide

/-- No result under the default layout exceeds 327680 in magnitude (R134). -/
theorem natAbs_toInt_fieldValue_defaultLayout_le (m : Memory) (i : Fin 11) :
    (fieldValue Config.defaultLayout m i).toInt.natAbs ≤ 327680 := by
  obtain ⟨hwidth, -, -⟩ := field_of_layoutLegal layoutLegal_defaultLayout i
  rw [toInt_fieldValue layoutLegal_defaultLayout, Int.natAbs_mul, Int.natAbs_natCast]
  exact (Nat.mul_le_mul_right _ (fieldRaw_inRawRange hwidth m).natAbs_le).trans (rawMagnitude_mul_num_defaultLayout_le i)

/-- Settles O27: a successful DSYSINFO leaves field values, and each is bounded. -/
theorem defaultLayoutRanges : Obligations.DefaultLayoutRanges := by
  intro s t r hl h hr i
  obtain ⟨o, ho, -, -⟩ := dsysinfoOp_eq_next h
  rw [telemetry_of_dsysinfoOp ho h hr, SysInfo.get_build, hl]
  have hbound := natAbs_toInt_fieldValue_defaultLayout_le o.mem i
  omega

end Sys2Proof.Machine
end

section
/-! SUPPORT. The receive sequencer (42_receive_sequencer.md): POLL on a pending frame from its draws to its exit (R152 to R162), its
independence of the IRQ events between its micro-steps (R163), the event IRQ (R151), the
dispatch branches (R156 to R161), what moves RXSTATE (R150), and the silent reading of NOTE (R155). -/

namespace Sys2Proof.Machine

/-! ## The event IRQ -/

theorem exec_irq (s : State) : exec .irq s = .next { s with rxstate := irqNext s.im s.rxstate } := rfl

theorem exec_irq_of_kept {s : State} (h : irqNext s.im s.rxstate = s.rxstate) : exec .irq s = .next s := by
  rw [exec_irq, h]

/-- An edge moves RXSTATE only out of Idle, and then to FramePending (R151). -/
theorem irqNext_eq_or (im : Bool) (rx : RxState) :
    irqNext im rx = rx ∨ (rx = .idle ∧ irqNext im rx = .framePending) := by
  rcases irqNext_cases im rx with hkept | ⟨rfl, hset⟩
  · exact .inl hkept
  · cases rx <;> simp_all [irqNext]

/-- Settles O38: the mask, RXSTATE other than Idle, and the one case that writes RXSTATE. -/
theorem irqEvent : Obligations.IrqEvent := by
  intro s
  refine ⟨fun him => ?_, fun _ hbusy => ?_, fun him hidle => ?_⟩
  · exact exec_irq_of_kept (him ▸ irqNext_masked s.rxstate)
  · exact exec_irq_of_kept ((irqNext_eq_or s.im s.rxstate).resolve_right fun h => hbusy h.1)
  · rw [exec_irq, him, hidle]
    rfl

/-- After boot an edge is exec of IRQ (R151, R195). -/
theorem acceptEvent_edge_of_ready {s : State} (h : s.boot = .ready) : acceptEvent .edge s = exec .irq s := if_pos h

/-- Before the callback is registered an edge reaches nothing (R195, log 7). -/
theorem acceptEvent_edge_of_not_ready {s : State} (h : s.boot ≠ .ready) : acceptEvent .edge s = .next s := if_neg h

/-- Settles O5: an edge decodes to IRQ, and the boot progress decides whether it is taken to the block. -/
theorem stepRunsEdge : Obligations.StepRunsEdge := by
  intro s rest hin
  rw [step_of_inputs hin]
  refine ⟨fun i hready hdecode => ?_, fun hboot => acceptEvent_edge_of_not_ready (s := { s with inputs := rest }) hboot⟩
  obtain rfl : Instr.irq = i := Except.ok.inj hdecode
  exact acceptEvent_edge_of_ready (s := { s with inputs := rest }) hready

/-! ## The dispatch branches -/

/-- P6 is exec of the frame row that FID decodes to (R156, log 9). -/
theorem dispatch_eq_exec {s : State} {fid : Byte} (hf : s.fid = some fid) :
    dispatch s = exec (decodeInbound s.params fid) s := by
  simp only [dispatch, hf, decodeInbound]
  cases classify s.params fid <;> rfl

/-- Settles O8: the decoder reads at an inbound id the row dispatch runs. -/
theorem dispatchRunsFrameInstruction : Obligations.DispatchRunsFrameInstruction := by
  intro s fid i hf hdecode
  obtain rfl : decodeInbound s.params fid = i := Except.ok.inj hdecode
  exact dispatch_eq_exec hf

@[simp] theorem errorNote_truncated : errorNote stTruncated = .error .frameTruncated 1 := rfl
@[simp] theorem errorNote_notAddressed : errorNote stNotAddressed = .error .frameNotAddressed 2 := rfl
@[simp] theorem errorNote_tooShort : errorNote stTooShort = .error .payloadTooShort 3 := rfl
@[simp] theorem errorNote_tooLong : errorNote stTooLong = .error .payloadTooLong 4 := rfl

/-- Settles O45: the branch is one `emit`. -/
theorem pongBranch : Obligations.PongBranch := fun _ => rfl

/-- Settles O46: the two lengths are the two branches of DSYSINFO, each followed by its notification. -/
theorem sysinfoBranch : Obligations.SysinfoBranch := fun _ _ ho hlen =>
  ⟨fun hshort => (execFrameRespSysinfo_of ho hlen).trans (if_pos hshort),
   fun hfull => ⟨_, exec_dsysinfo_of_le ho hlen hfull, (execFrameRespSysinfo_of ho hlen).trans (if_neg (Nat.not_lt.2 hfull))⟩⟩

/-- Settles O47: the three lengths are the three branches of DLASTPKT, each followed by its notification. -/
theorem lastpktBranch : Obligations.LastpktBranch := by
  intro s o ho hlen
  have heq : exec .frameRespLastpkt s = _ := execFrameRespLastpkt_of ho hlen
  refine ⟨fun hshort => ?_, fun hlong => ?_, fun htwo => ?_⟩
  · rw [heq, if_pos hshort, errorNote_tooShort]
  · rw [heq, if_neg (by omega), if_pos hlong, errorNote_tooLong]
  · rw [heq, if_neg (by omega), if_neg (by omega)]

/-- Settles O48: DREPEAT's operand is what is relayed. -/
theorem repeatedBranch : Obligations.RepeatedBranch := fun _ _ ho hlen => execFrameRespRepeated_of ho hlen

/-- Settles O49: STATUS and one `emit`. -/
theorem unrecognizedBranch : Obligations.UnrecognizedBranch := fun _ _ => rfl

/-! ## POLL with nothing pending -/

/-- Without a pending frame POLL returns at once (R153). -/
theorem pollOp_of_not_pending {s : State} (h : s.rxstate ≠ .framePending) : pollOp s = .next s := if_neg h

/-- Settles O40: P0 is the one test made. -/
theorem pollNothingPending : Obligations.PollNothingPending := by
  intro s hlen hpending
  exact (guardOptLen_of_ok hlen pollOp).trans (pollOp_of_not_pending (of_decide_eq_false hpending))

/-! ## POLL on a pending frame -/

theorem exec_poll_of_pending {s : State} (hlen : OptLenOk s) (hp : s.rxstate = .framePending) :
    exec .poll s = pollPending s :=
  (guardOptLen_of_ok hlen pollOp).trans (if_pos hp)

/-- A packet length of at most RX_CAP takes POLL through the reading and interpretation of the frame to its exit (R152). -/
theorem exec_poll_of_le {s : State} (hlen : OptLenOk s) (hp : s.rxstate = .framePending)
    (hcap : polledLength s ≤ s.params.rxCap) :
    ∃ e, exec .poll s =
      andThen (pollFrame (polledRead s).1 (polledRead s).2 (pulled s e)) fun u => .next (pollLeave u) := by
  obtain ⟨e, heq⟩ := pollPending_eq hp
  exact ⟨e, by rw [exec_poll_of_pending hlen hp, heq, if_neg (Nat.not_lt.2 hcap)]⟩

/-- Settles O41: once the packet length is drawn nothing can stop POLL, the interpretation notifies once (R155 to R161), and the exit
is taken on every path (R160). -/
theorem pollOneNotificationAlwaysIdle : Obligations.PollOneNotificationAlwaysIdle := by
  intro s c hp hc hlen hdraw
  have hcap := polledLength_le hdraw
  obtain ⟨e, hpoll⟩ := exec_poll_of_le hlen hp hcap
  obtain ⟨u, hu⟩ := pollFrame_completes (st := (polledRead s).1) (bytes := (polledRead s).2) (s := pulled s e) rfl hc
  obtain ⟨st', e', hst', hleave⟩ := pollLeave_eq u
  rw [hu, andThen_next, hleave] at hpoll
  obtain ⟨rx, -, fid, opt, telemetry, packet, rv, status, note, env, rfl, -⟩ := pollFrame_interpreted rfl hu
  exact ⟨_, note, polledLength s, (polledRead s).1, (polledRead s).2, st', hpoll, rfl, rfl, rfl, by simp [pulled], hcap,
    length_polledRead s, rfl, rfl, rfl, rfl, rfl, rfl, rfl, isStatus_polledRead s, hst'⟩

/-! ## POLL by the answers the environment lists -/

/-- A packet length above RX_CAP is no answer of the environment's (R154, U6). -/
theorem exec_poll_of_gt {s : State} {plen : Nat} {lens : List Nat} (hlen : OptLenOk s) (hp : s.rxstate = .framePending)
    (hl : s.env.packetLength = plen :: lens) (hcap : s.params.rxCap < plen) :
    exec .poll s = .refused .packetLengthAboveCapacity := by
  obtain ⟨e, heq⟩ := pollPending_eq hp
  rw [exec_poll_of_pending hlen hp, heq, polledLength_of_cons hl, if_pos hcap]

/-- What P4 starts from when `readData` has answered `st` and `bytes` (R152). -/
def answered (s : State) (st : DrvStatus) (bytes : List Byte) (e : Env) : State :=
  { s with
    rxstate := .processing, im := true, fid := none, opt := none, telemetry := none, packet := none, rv := false, rx := none,
    drvcode := some st,
    drvlog := s.drvlog ++ [.getPacketLength bytes.length, .readData bytes.length st bytes],
    env := e }

/-- The listed answers of the asked length and of the driver's type are those POLL works on (R205, log 4). -/
theorem exec_poll_of_answers {s : State} {lens : List Nat} {st : DrvStatus} {bytes : List Byte}
    {reads : List (DrvStatus × List Byte)} (hlen : OptLenOk s) (hp : s.rxstate = .framePending)
    (hl : s.env.packetLength = bytes.length :: lens) (hr : s.env.readData = (st, bytes) :: reads)
    (hst : isStatus s.params st = true) (hcap : bytes.length ≤ s.params.rxCap) :
    ∃ e, exec .poll s = andThen (pollFrame st bytes (answered s st bytes e)) fun u => .next (pollLeave u) := by
  have hn := polledLength_of_cons hl
  have hread := polledRead_of_cons hr hst hn.symm
  obtain ⟨e, heq⟩ := exec_poll_of_le hlen hp (hn.trans_le hcap)
  refine ⟨e, heq.trans ?_⟩
  rw [pulled, hread, hn, answered]

/-- A read status other than DRV_OK is notified, and no byte is looked at (R154). -/
theorem pollFrame_of_readError {s : State} {st : DrvStatus} (bytes : List Byte) (hst : st ≠ s.params.drvOk) :
    pollFrame st bytes s = .next (emit (.error .transportRx st) { s with status := stTransport }) := if_neg hst

/-- What P5 starts from when `bytes` were read with DRV_OK (R152). -/
def loaded (s : State) (bytes : List Byte) (e : Env) : State :=
  { answered s s.params.drvOk bytes e with rx := some (Buf.ofBytes bytes) }

/-- A packet read with DRV_OK that RXLEN counts stands in RXBUF when it is interpreted (R152, log 10). -/
theorem exec_poll_of_packet {s : State} {lens : List Nat} {bytes : List Byte} {reads : List (DrvStatus × List Byte)}
    (hlen : OptLenOk s) (hp : s.rxstate = .framePending) (hl : s.env.packetLength = bytes.length :: lens)
    (hr : s.env.readData = (s.params.drvOk, bytes) :: reads) (hcap : bytes.length ≤ s.params.rxCap)
    (hcount : bytes.length < 2 ^ 16) :
    ∃ e, exec .poll s = andThen (pollInterpret (loaded s bytes e)) fun u => .next (pollLeave u) := by
  obtain ⟨e, hpoll⟩ := exec_poll_of_answers hlen hp hl hr (isStatus_drvOk s.params) hcap
  obtain ⟨e', he⟩ := interleave_of_busy (s := loaded s bytes e) (by simp [loaded, answered])
  have hframe : pollFrame s.params.drvOk bytes (answered s s.params.drvOk bytes e) = pollInterpret (loaded s bytes e') := by
    rw [pollFrame, if_pos (by rfl), Buf.received_eq hcount]
    exact congrArg pollInterpret he
  exact ⟨e', hframe ▸ hpoll⟩

/-- Settles O42: the length test comes before the read, and after the read the status alone decides. -/
theorem pollReadError : Obligations.PollReadError := by
  rintro s plen lens st bytes reads hp hlen hl hr rfl hst
  refine ⟨exec_poll_of_gt hlen hp hl, fun hcap hne => ?_⟩
  obtain ⟨e, hpoll⟩ := exec_poll_of_answers hlen hp hl hr hst hcap
  rw [pollFrame_of_readError (s := answered s st bytes e) bytes hne, andThen_next] at hpoll
  obtain ⟨st', e', -, hleave⟩ := pollLeave_eq (emit (.error .transportRx st) { answered s st bytes e with status := stTransport })
  refine ⟨st', e', ?_⟩
  rw [hpoll, hleave]
  simp [answered, emit]

/-- Settles O43: the packet in RXBUF is what DECODE rejects, and the exit follows the one notification. -/
theorem pollFrameError : Obligations.PollFrameError := by
  rintro s c plen lens bytes reads err hp hc hlen hl hr rfl hcap hcount herr
  obtain ⟨e, hpoll⟩ := exec_poll_of_packet hlen hp hl hr hcap hcount
  have hbytes := Buf.bytes_ofBytes hcount
  obtain ⟨e', hinterpret⟩ := pollInterpret_error (s := loaded s bytes e) rfl hc rfl (hbytes.symm ▸ herr)
  rw [hinterpret, andThen_next] at hpoll
  obtain ⟨st', e'', -, hleave⟩ := pollLeave_eq _
  refine ⟨Buf.ofBytes bytes, st', e'', ?_, hbytes⟩
  rw [hpoll, hleave]
  cases err <;> simp [loaded, answered, frameErrorCode]

/-- Settles O44: DECODE leaves a function id and at most 255 bytes in OPT, with which every dispatch branch completes. -/
theorem pollRunsFrameInstruction : Obligations.PollRunsFrameInstruction := by
  rintro s c plen lens bytes d reads fid hp hc hlen hl hr rfl hcap hcount hdecode
  obtain ⟨e, hpoll⟩ := exec_poll_of_packet hlen hp hl hr hcap hcount
  have hbytes := Buf.bytes_ofBytes hcount
  obtain ⟨e', hinterpret⟩ := pollInterpret_ok (s := loaded s bytes e) rfl hc rfl (hbytes.symm ▸ hdecode)
  have hd := length_of_decodeFrame hdecode
  have hdata : (Buf.ofBytes d).bytes = d := Buf.bytes_ofBytes (by omega)
  have hdlen : (Buf.ofBytes d).len.toNat ≤ 255 := by rwa [← Buf.length_bytes, hdata]
  obtain ⟨u, hu⟩ := dispatch_completes
    (s := { loaded s bytes e' with fid := some fid, opt := some (Buf.ofBytes d), status := stOk }) rfl rfl hdlen
  obtain ⟨st', e'', -, hleave⟩ := pollLeave_eq u
  rw [hinterpret.trans hu, andThen_next, hleave] at hpoll
  exact ⟨Buf.ofBytes bytes, Buf.ofBytes d, u, st', e', e'', (dispatch_eq_exec rfl).symm.trans hu, hpoll, hbytes, hdata, hdlen⟩

/-! ## Race freedom -/

/-- The state with other numbers of IRQ events to come in the gaps between micro-steps (R151). -/
def withEdges (edges : List Nat) (s : State) : State := { s with env := { s.env with edges := edges } }

/-- The result with other numbers of IRQ events to come in the state it leaves. -/
def resultWithEdges (edges : List Nat) (o : Result) : Result := andThen o fun t => .next (withEdges edges t)

theorem resultWithEdges_ite (edges : List Nat) (p : Prop) [Decidable p] (o o' : Result) :
    resultWithEdges edges (if p then o else o') = if p then resultWithEdges edges o else resultWithEdges edges o' := by
  split <;> rfl

/-- Outside Idle a gap takes its number of IRQ events and does nothing else, whatever the number (R163). -/
theorem interleave_withEdges {s : State} (h : irqNext s.im s.rxstate = s.rxstate) (edges : List Nat) :
    interleave (withEdges edges s) = withEdges edges.tail (interleave s) := by
  rw [interleave_eq_of_busy h, interleave_eq_of_busy (s := withEdges edges s) h]
  rfl

/-- An operand check either faults or hands on optional data of at most 255 bytes (R21, R24). -/
theorem withOpt_cases (s : State) : (∃ r, ∀ f, withOpt s f = .fault r) ∨ ∃ o, s.opt = some o ∧ o.len.toNat ≤ 255 := by
  rcases Option.eq_none_or_eq_some s.opt with ho | ⟨o, ho⟩
  · exact .inl ⟨_, withOpt_of_none ho⟩
  rcases Nat.lt_or_ge 255 o.len.toNat with hlen | hlen
  · exact .inl ⟨_, withOpt_of_lt ho hlen⟩
  · exact .inr ⟨o, ho, hlen⟩

/-- An instruction that reads OPT stops before it looks at anything else where OPT is no operand. -/
theorem exec_withEdges_of_operand {edges : List Nat} {s : State} {i : Instr}
    (hi : i ∈ [Instr.dsysinfo, .dlastpkt, .drepeat, .frameRespSysinfo, .frameRespLastpkt, .frameRespRepeated])
    (h : ∀ o, s.opt = some o → o.len.toNat ≤ 255 → exec i (withEdges edges s) = resultWithEdges edges (exec i s)) :
    exec i (withEdges edges s) = resultWithEdges edges (exec i s) := by
  rcases withOpt_cases s with ⟨r, hfault⟩ | ⟨o, ho, hlen⟩
  · rw [exec_fault_of_withOpt hfault hi, exec_fault_of_withOpt (s := withEdges edges s) hfault hi]
    rfl
  · exact h o ho hlen

/-- The dispatch of P6 does not look at the IRQ events to come. -/
theorem dispatch_withEdges (edges : List Nat) (s : State) :
    dispatch (withEdges edges s) = resultWithEdges edges (dispatch s) := by
  cases hf : s.fid with
  | none => simp [dispatch, hf, withEdges, resultWithEdges]
  | some fid =>
    rw [dispatch_eq_exec hf, dispatch_eq_exec (s := withEdges edges s) hf]
    change exec (decodeInbound s.params fid) _ = _
    unfold decodeInbound
    cases classify s.params fid with
    | pong => rfl
    | sysinfo =>
      refine exec_withEdges_of_operand (by simp) fun o ho hlen => ?_
      rw [exec, exec, execFrameRespSysinfo_of ho hlen, execFrameRespSysinfo_of (s := withEdges edges s) ho hlen,
        resultWithEdges_ite]
      rfl
    | lastpkt =>
      refine exec_withEdges_of_operand (by simp) fun o ho hlen => ?_
      rw [exec, exec, execFrameRespLastpkt_of ho hlen, execFrameRespLastpkt_of (s := withEdges edges s) ho hlen,
        resultWithEdges_ite, resultWithEdges_ite]
      rfl
    | repeated =>
      refine exec_withEdges_of_operand (by simp) fun o ho hlen => ?_
      rw [exec, exec, execFrameRespRepeated_of ho hlen, execFrameRespRepeated_of (s := withEdges edges s) ho hlen]
      rfl
    | unrecognized => rfl

theorem decodeOp_withEdges (edges : List Nat) (s : State) :
    decodeOp (withEdges edges s) = resultWithEdges edges (decodeOp s) := by
  rcases Option.eq_none_or_eq_some s.cs with hc | ⟨c, hc⟩
  · rw [decodeOp_of_cs_none hc, decodeOp_of_cs_none (s := withEdges edges s) hc]
    rfl
  rcases Option.eq_none_or_eq_some s.rx with hr | ⟨r, hr⟩
  · have hne : s.cs ≠ none := by simp [hc]
    rw [decodeOp_of_rx_none hne hr, decodeOp_of_rx_none (s := withEdges edges s) hne hr]
    rfl
  cases h : decodeFrame c.bytes r.bytes with
  | error err =>
    rw [decodeOp_error hc hr h, decodeOp_error (s := withEdges edges s) hc hr h]
    rfl
  | ok a =>
    rw [decodeOp_ok hc hr h, decodeOp_ok (s := withEdges edges s) hc hr h]
    rfl

/-- DECODE leaves RXSTATE as it is (R34). -/
theorem rxstate_of_decodeOp {s t : State} (h : decodeOp s = .next t) : t.rxstate = s.rxstate := by
  obtain ⟨c, r, -, -, ⟨fid, d, -, rfl⟩ | ⟨e, -, rfl⟩⟩ := decodeOp_eq_next h <;> rfl

theorem pollInterpret_withEdges {s : State} (hs : s.rxstate = .processing) (edges : List Nat) :
    pollInterpret (withEdges edges s) = resultWithEdges edges.tail (pollInterpret s) := by
  rw [pollInterpret, pollInterpret, decodeOp_withEdges]
  cases h : decodeOp s with
  | fault r => rfl
  | refused r => rfl
  | next u =>
    have hu : u.rxstate = .processing := (rxstate_of_decodeOp h).trans hs
    simp only [resultWithEdges, andThen_next]
    rw [interleave_withEdges (by simp [hu])]
    change (if (interleave u).status = stOk then _ else _) = resultWithEdges _ _
    rw [resultWithEdges_ite, dispatch_withEdges]
    rfl

theorem rxstate_interleave_of_processing {s : State} (hs : s.rxstate = .processing) : (interleave s).rxstate = .processing :=
  (interleave_rxstate_of_busy (by simp [hs])).trans hs

/-- A gap while POLL is processing, and the step after it with it (R152). -/
theorem pollInterpret_interleave_withEdges {s : State} (hs : s.rxstate = .processing) (edges : List Nat) :
    pollInterpret (interleave (withEdges edges s))
      = resultWithEdges edges.tail.tail (pollInterpret (interleave s)) := by
  rw [interleave_withEdges (by simp [hs]), pollInterpret_withEdges (rxstate_interleave_of_processing hs)]

/-- P4 to P6: how many gaps there are depends on the read status alone. -/
theorem pollFrame_withEdges {s : State} (hs : s.rxstate = .processing) (st : DrvStatus) (bytes : List Byte)
    (edges : List Nat) :
    ∃ edges', pollFrame st bytes (withEdges edges s) = resultWithEdges edges' (pollFrame st bytes s) := by
  by_cases hst : st = s.params.drvOk
  · refine ⟨edges.tail.tail, ?_⟩
    rw [pollFrame, pollFrame, if_pos hst, if_pos (by exact hst)]
    exact pollInterpret_interleave_withEdges (s := { s with rx := some (Buf.received s.env.drawn bytes) }) hs edges
  · refine ⟨edges, ?_⟩
    rw [pollFrame_of_readError bytes hst, pollFrame_of_readError (s := withEdges edges s) bytes hst]
    rfl

/-- P7 and P8 write RXSTATE and IM whatever the gaps before them did to RXSTATE (R160). -/
theorem pollLeave_withEdges (edges : List Nat) (s : State) :
    pollLeave (withEdges edges s) = withEdges edges.tail.tail (pollLeave s) := rfl

/-- P0, P1 and the gaps after them: an edge is nothing to a pending frame, and P1 leaves Processing. -/
theorem pollEnter_withEdges {s : State} (hp : s.rxstate = .framePending) (edges : List Nat) :
    interleave (pollEnter (interleave (withEdges edges s)))
      = withEdges edges.tail.tail (interleave (pollEnter (interleave s))) := by
  rw [interleave_withEdges (by simp [hp])]
  exact interleave_withEdges (s := pollEnter (interleave s)) (by simp) edges.tail

theorem pollLength_withEdges {s : State} (hs : s.rxstate = .processing) (edges : List Nat) :
    interleave (pollLength (withEdges edges s)).2 = withEdges edges.tail (interleave (pollLength s).2) :=
  interleave_withEdges (s := (pollLength s).2) (by simp [pollLength, hs]) edges

theorem pollRead_withEdges {s : State} (hs : s.rxstate = .processing) (n : Nat) (edges : List Nat) :
    interleave (pollRead n (withEdges edges s)).2 = withEdges edges.tail (interleave (pollRead n s).2) :=
  interleave_withEdges (s := (pollRead n s).2) (by simp [pollRead, hs]) edges

/-- What the driver answers does not depend on the IRQ events to come. -/
theorem pollLength_fst_withEdges (edges : List Nat) (s : State) :
    (pollLength (withEdges edges s)).1 = (pollLength s).1 := rfl

theorem pollRead_fst_withEdges (n : Nat) (edges : List Nat) (s : State) :
    (pollRead n (withEdges edges s)).1 = (pollRead n s).1 := rfl

theorem andThen_pollLeave_withEdges (edges : List Nat) (o : Result) :
    (andThen (resultWithEdges edges o) fun u => .next (pollLeave u))
      = resultWithEdges edges.tail.tail (andThen o fun u => .next (pollLeave u)) := by
  cases o <;> simp [resultWithEdges, pollLeave_withEdges]

/-- POLL with a frame pending ends the same with other numbers of IRQ events in its gaps (R163): before P1 RXSTATE is FramePending and
up to P8 Processing, and an edge changes neither. -/
theorem pollPending_withEdges {s : State} (hp : s.rxstate = .framePending) (edges : List Nat) :
    ∃ edges', pollPending (withEdges edges s) = resultWithEdges edges' (pollPending s) := by
  have h1 : (interleave (pollEnter (interleave s))).rxstate = .processing := rxstate_interleave_of_processing rfl
  have h2 : (interleave (pollLength (interleave (pollEnter (interleave s)))).2).rxstate = .processing :=
    rxstate_interleave_of_processing h1
  have h3 (n : Nat) : (interleave (pollRead n (interleave (pollLength (interleave (pollEnter (interleave s)))).2)).2).rxstate
      = .processing := rxstate_interleave_of_processing h2
  simp only [pollPending, pollEnter_withEdges hp, pollLength_withEdges h1, pollRead_withEdges h2, pollLength_fst_withEdges,
    pollRead_fst_withEdges]
  obtain ⟨edges', hframe⟩ := pollFrame_withEdges (h3 _) _ _ _
  refine ⟨edges'.tail.tail, ?_⟩
  rw [hframe, andThen_pollLeave_withEdges, resultWithEdges_ite]
  rfl

/-- Settles O50: the same POLL on the same state, with other numbers of IRQ events to come and nothing else. -/
theorem raceFreedom : Obligations.RaceFreedom := by
  intro s t edges hp h
  obtain ⟨hlen, hpoll⟩ := guardOptLen_eq_next.1 h
  obtain ⟨edges', heq⟩ := pollPending_withEdges hp edges
  rw [← exec_poll_of_pending hlen hp, h] at heq
  exact ⟨withEdges edges' t, (exec_poll_of_pending (s := withEdges edges s) hlen hp).trans heq, rfl⟩

/-! ## What moves RXSTATE -/

/-- POLL moves RXSTATE from FramePending to Idle or not at all (R152, R153). -/
theorem exec_poll_rxstate {s t : State} (h : exec .poll s = .next t) :
    t.rxstate = s.rxstate ∨ (s.rxstate = .framePending ∧ t.rxstate = .idle) := by
  obtain ⟨-, hpoll⟩ := guardOptLen_eq_next.1 h
  by_cases hp : s.rxstate = .framePending
  · obtain ⟨e, u, -, -, rfl⟩ := pollPending_eq_next hp ((if_pos hp).symm.trans hpoll)
    exact .inr ⟨hp, pollExit_rxstate _⟩
  · rw [pollOp_of_not_pending hp] at hpoll
    cases hpoll
    exact .inl rfl

/-- A sender of a command without data leaves RXSTATE as it is (R34, R170). -/
theorem sendCommand_rxstate {fid : Byte} {s t : State} (h : andThen (buildCommand fid s) transmitStep = .next t) :
    t.rxstate = s.rxstate := by
  obtain ⟨u, hu, ht⟩ := andThen_eq_next.1 h
  obtain ⟨c, -, rfl⟩ := buildCommand_eq_next hu
  obtain ⟨tx, -, rfl⟩ := transmitStep_eq_next ht
  rfl

theorem execSendRetx_rxstate {line : List Byte} {s t : State} (h : execSendRetx line s = .next t) :
    t.rxstate = s.rxstate := by
  obtain ⟨-, hsend⟩ := guardOptLen_eq_next.1 h
  obtain ⟨u, hu, hbuild⟩ := andThen_eq_next.1 hsend
  obtain ⟨v, hv, htransmit⟩ := andThen_eq_next.1 hbuild
  cases finish_eq_next.1 hu
  obtain ⟨tx, -, rfl⟩ := transmitStep_eq_next htransmit
  obtain ⟨o, -, ⟨-, rfl⟩ | ⟨-, c, fid, -, -, rfl⟩⟩ := encodeOp_eq_next hv <;> rfl

/-- POLL is the one port operation that moves RXSTATE (R34, R150). -/
theorem exec_port_rxstate {i : Instr} {s t : State} (hkind : i.kind = .port) (hpoll : i ≠ .poll) (h : exec i s = .next t) :
    t.rxstate = s.rxstate := by
  by_cases hpure : isPure i = true
  · exact (pureOperationsFrame i s t hpure h).1
  cases i with
  | sendPing => exact sendCommand_rxstate (guardOptLen_eq_next.1 (show execSendPing s = _ from h)).2
  | sendReqsys => exact sendCommand_rxstate (guardOptLen_eq_next.1 (show execSendReqsys s = _ from h)).2
  | sendReqpkt => exact sendCommand_rxstate (guardOptLen_eq_next.1 (show execSendReqpkt s = _ from h)).2
  | sendRetx line => exact execSendRetx_rxstate h
  | reserved0 | reservedC | reservedD | reservedE | reservedF =>
    cases finish_eq_next.1 h
    rfl
  | poll => exact absurd rfl hpoll
  | encode | decode | dsysinfo | dlastpkt | drepeat | collect => exact absurd rfl hpure
  | irq | frameCmdPing | frameCmdRetransmit | frameCmdSysinfo | frameCmdLastpkt | frameRespPong | frameRespRepeated
  | frameRespSysinfo | frameRespLastpkt | frameUnrecognized => cases hkind

theorem kind_decodePort (op : BitVec 4) (line : List Byte) : (decodePort op line).kind = .port := by
  unfold decodePort
  split <;> rfl

/-- Code `0x6` alone selects POLL (R90). -/
theorem eq_of_decodePort_poll {op : BitVec 4} {line : List Byte} (h : decodePort op line = .poll) : op = 0x6#4 := by
  unfold decodePort at h
  split at h
  case h_7 hop => exact BitVec.eq_of_toNat_eq hop
  all_goals cases h

theorem request_rxstate {ctx : Context} {op : BitVec 4} {line : List Byte} {s t : State}
    (h : request ctx op line s = .next t) :
    t.rxstate = s.rxstate
      ∨ (s.rxstate = .framePending ∧ t.rxstate = .idle ∧ ctx = .mainLoop ∧ op = 0x6#4) := by
  cases ctx with
  | interrupt => cases h
  | mainLoop =>
    have hexec : exec (decodePort op line) s = .next t := h
    by_cases hpoll : decodePort op line = .poll
    · obtain rfl := eq_of_decodePort_poll hpoll
      exact (exec_poll_rxstate hexec).imp_right fun ⟨hp, hidle⟩ => ⟨hp, hidle, rfl, rfl⟩
    · exact .inl (exec_port_rxstate (kind_decodePort op line) hpoll hexec)

theorem writeOpt_rxstate {bytes : List Byte} {s t : State} (h : writeOpt bytes s = .next t) : t.rxstate = s.rxstate := by
  unfold writeOpt at h
  split_ifs at h <;> cases h <;> rfl

theorem writeRxbuf_rxstate {bytes : List Byte} {s t : State} (h : writeRxbuf bytes s = .next t) :
    t.rxstate = s.rxstate := by
  unfold writeRxbuf at h
  split_ifs at h
  cases h
  rfl

/-- Before the end of the boot sequence RXSTATE is as reset left it (R42). -/
theorem Inv.idle_of_not_ready {s : State} (hi : Inv s) (h : s.boot ≠ .ready) : s.rxstate = .idle := by
  obtain ⟨-, -, -, -, -, -, -, -, -, -, hidle, -, -⟩ := hi.fresh h
  exact hidle

theorem bootSequence_rxstate {radioOk : Bool} {s t : State} (hi : Inv s) (h : bootSequence radioOk s = .next t) :
    t.rxstate = s.rxstate := by
  obtain ⟨hb, -, ⟨st, e, rfl⟩ | rfl⟩ := bootSequence_eq_next h
  · exact (hi.idle_of_not_ready (by simp [hb])).symm
  · rfl

theorem acceptEvent_edge_rxstate {s t : State} (h : acceptEvent .edge s = .next t) :
    t.rxstate = s.rxstate ∨ (s.rxstate = .idle ∧ t.rxstate = .framePending) := by
  by_cases hready : s.boot = .ready
  · rw [acceptEvent_edge_of_ready hready, exec_irq] at h
    cases h
    exact irqNext_eq_or s.im s.rxstate
  · rw [acceptEvent_edge_of_not_ready hready] at h
    cases h
    exact .inl rfl

/-- Of the events, an edge and a request alone can move RXSTATE, and of the requests POLL alone; a restart apart (R150, R215). -/
theorem acceptEvent_rxstate {e : Event} {s t : State} (hi : Inv s) (hrestart : ∀ p, e ≠ .restart p)
    (h : acceptEvent e s = .next t) :
    t.rxstate = s.rxstate
      ∨ (s.rxstate = .idle ∧ t.rxstate = .framePending ∧ e = .edge)
      ∨ (s.rxstate = .framePending ∧ t.rxstate = .idle ∧ ∃ line, e = .request .mainLoop 0x6#4 line) := by
  cases e with
  | restart p => exact absurd rfl (hrestart p)
  | boot radioOk => exact .inl (bootSequence_rxstate hi h)
  | edge => exact (acceptEvent_edge_rxstate h).imp_right fun ⟨hidle, hset⟩ => .inl ⟨hidle, hset, rfl⟩
  | request ctx op line =>
    refine (request_rxstate (whenReady_eq_next h).2).imp_right fun ⟨hp, hidle, hctx, hop⟩ => .inr ⟨hp, hidle, line, ?_⟩
    rw [hctx, hop]
  | writeOpt bytes => exact .inl (writeOpt_rxstate (whenReady_eq_next h).2)
  | writeRxbuf bytes => exact .inl (writeRxbuf_rxstate (whenReady_eq_next h).2)
  | writeOther r =>
    rw [acceptEvent] at h
    cases (whenReady_eq_next h).2
  | writeFidin | read =>
    rw [acceptEvent] at h
    cases (whenReady_eq_next h).2
    exact .inl rfl
  | driverCall ctx =>
    cases acceptDriverCall_eq_next (whenReady_eq_next h).2
    exact .inl rfl

/-- Settles O53: the step accepts one event. -/
theorem rxstateTransitions : Obligations.RxstateTransitions := fun s _ _ rest hi hin hrestart h =>
  acceptEvent_rxstate (s := { s with inputs := rest }) (hi.with_inputs rest) hrestart ((step_of_inputs hin).symm.trans h)

/-! ## The silent reading of NOTE -/

/-- The notifications of the two frame error kinds (R155, C2). -/
theorem silentNotes_cons_frameError {n : Note}
    (h : ∃ code, n = .error .frameTruncated code ∨ n = .error .frameNotAddressed code) (notes : List Note) :
    silentNotes (n :: notes) = silentNotes notes := by
  obtain ⟨code, rfl | rfl⟩ := h <;> rfl

theorem silentNotes_cons_other {n : Note}
    (h : ∀ code, n ≠ .error .frameTruncated code ∧ n ≠ .error .frameNotAddressed code) (notes : List Note) :
    silentNotes (n :: notes) = n :: silentNotes notes := by
  refine List.filter_cons_of_pos ?_
  split
  · next code => exact absurd rfl (h code).1
  · next code => exact absurd rfl (h code).2
  · rfl

/-- Settles O60: the reading is a filter, and its test fails on the two frame error kinds alone. -/
theorem silentReading : Obligations.SilentReading :=
  ⟨rfl, fun _ _ => ⟨List.filter_sublist, fun h => silentNotes_cons_frameError h _, fun h => silentNotes_cons_other h _⟩⟩

end Sys2Proof.Machine
end

section
/-! SUPPORT. The command senders and the line collector (43_command_senders.md): where COLLECT ends a line (R175), and what a sender
leaves once its frame is in TXBUF (R171 to R174, R176). -/

namespace Sys2Proof.Machine

/-! ## The line collector -/

theorem isTerminator_iff {b : Byte} : isTerminator b = true ↔ b = 0x0D#8 ∨ b = 0x0A#8 := by
  simp [isTerminator]

theorem length_collectLine (line : List Byte) : (collectLine line).length = min (line.findIdx isTerminator) 32 := by
  have hle : line.findIdx isTerminator ≤ line.length := List.findIdx_le_length
  rw [collectLine, List.length_take]
  exact Nat.min_eq_left (Nat.le_trans (Nat.min_le_left _ _) hle)

/-- The collected line is a prefix of the input. -/
theorem take_length_collectLine (line : List Byte) : line.take (collectLine line).length = collectLine line := by
  rw [length_collectLine, collectLine]

theorem length_collectLine_le_length (line : List Byte) : (collectLine line).length ≤ line.length :=
  List.length_take_le' _ _

theorem not_isTerminator_of_lt_collectLine {line : List Byte} {k : Nat} {b : Byte} (hk : k < (collectLine line).length)
    (hb : (line)[k]? = some b) : ¬ isTerminator b = true := by
  have hfirst : k < line.findIdx isTerminator := by
    rw [length_collectLine] at hk
    omega
  obtain ⟨hlen, rfl⟩ := List.getElem?_eq_some_iff.1 hb
  exact ne_true_of_eq_false (List.not_of_lt_findIdx hfirst)

/-- A collected line ends at the cap, at the end of the input or before a terminator (R175). -/
theorem collectLine_end (line : List Byte) :
    (collectLine line).length = 32 ∨ (collectLine line).length = line.length
      ∨ ∃ b, (line)[(collectLine line).length]? = some b ∧ isTerminator b = true := by
  rw [length_collectLine]
  rcases Nat.le_or_le 32 (line.findIdx isTerminator) with hcap | hcap
  · exact .inl (Nat.min_eq_right hcap)
  rw [Nat.min_eq_left hcap]
  rcases Nat.eq_or_lt_of_le (List.findIdx_le_length (p := isTerminator) (xs := line)) with hend | hlt
  · exact .inr (.inl hend)
  · exact .inr (.inr ⟨_, List.getElem?_eq_getElem hlt, List.findIdx_getElem⟩)

/-- The collected line is short enough for OPTLEN. -/
theorem length_collectLine_lt (line : List Byte) : (collectLine line).length < 2 ^ 16 :=
  Nat.lt_of_le_of_lt (length_collectLine_le line) (by decide)

theorem toNat_len_ofBytes_collectLine (line : List Byte) :
    (Buf.ofBytes (collectLine line)).len.toNat = (collectLine line).length :=
  Buf.toNat_len_ofBytes (length_collectLine_lt line)

theorem bytes_ofBytes_collectLine (line : List Byte) : (Buf.ofBytes (collectLine line)).bytes = collectLine line :=
  Buf.bytes_ofBytes (length_collectLine_lt line)

theorem exec_collect_of_ok {s : State} (hlen : OptLenOk s) (line : List Byte) :
    exec (.collect line) s = .next { s with opt := some (Buf.ofBytes (collectLine line)), rv := false, status := stOk } :=
  guardOptLen_of_ok hlen _

/-- Settles O34, with the length of `collectLine line` as the number of bytes collected. -/
theorem collectResult : Obligations.CollectResult := by
  intro s line hlen
  refine ⟨_, (collectLine line).length, exec_collect_of_ok hlen line, toNat_len_ofBytes_collectLine line, ?_,
    length_collectLine_le line, length_collectLine_le_length line, fun k b hk hb => ?_, ?_⟩
  · rw [bytes_ofBytes_collectLine, take_length_collectLine]
  · exact not_or.1 (isTerminator_iff.not.1 (not_isTerminator_of_lt_collectLine hk hb))
  · refine (collectLine_end line).imp_right (Or.imp_right ?_)
    rintro ⟨b, hb, hterm⟩
    rcases isTerminator_iff.1 hterm with rfl | rfl
    · exact .inl hb
    · exact .inr hb

/-! ## The transmit step -/

/-- The status drawn is the answer listed, where it is one of the driver's type; the rest stays listed (log 4). -/
theorem drawTransmit_of_listed {s : State} {a : DrvStatus} {as : List DrvStatus} (h : s.env.transmit = a :: as)
    (ha : isStatus s.params a = true) : (drawTransmit s).1 = a ∧ (drawTransmit s).2.env.transmit = as := by
  simp [drawTransmit, Env.count, h, fitStatus_self ha]

/-- The status `st` and the environment `e` are what one `transmit` call can leave in `s` (R205, R207; log 4). -/
def IsTransmitDraw (s : State) (st : DrvStatus) (e : Env) : Prop :=
  isStatus s.params st = true
    ∧ ∀ a as, s.env.transmit = a :: as → isStatus s.params a = true → st = a ∧ e.transmit = as

theorem transmitStep_result {s : State} {tx : Buf} (h : s.tx = some tx) :
    ∃ st e, transmitStep s = .next (transmitted s tx st e) ∧ IsTransmitDraw s st e :=
  ⟨_, _, transmitStep_of h, isStatus_drawTransmit s, fun _ _ => drawTransmit_of_listed⟩

/-! ## The senders -/

/-- A sender without payload: the frame of the callsign and the function id, and one transmit call with it (R171 to R173). -/
theorem sendCommand_result {s : State} {c : Buf} (hc : s.cs = some c) (hroom : c.len.toNat + 257 < 65536) (fid : Byte) :
    ∃ b o st e, andThen (buildCommand fid s) transmitStep = .next (transmitted { s with
          fidin := some fid, opt := some o, rv := false, tx := some b, status := stOk } b st e)
      ∧ o.len.toNat = 0 ∧ b.bytes = c.bytes ++ [fid] ∧ IsTransmitDraw s st e := by
  obtain ⟨b, o, hbuild, ho, hb⟩ := buildCommand_result hc hroom fid
  obtain ⟨st, e, hsend, hdraw⟩ := transmitStep_result (s := { s with
    fidin := some fid, opt := some o, rv := false, tx := some b, status := stOk }) rfl
  exact ⟨b, o, st, e, by rw [hbuild, andThen_next, hsend], ho, hb, hdraw⟩

/-- The retransmit sender past COLLECT: the frame of the bytes in OPT, and one transmit call with it (R174). -/
theorem sendRetransmit_result {s : State} {c o : Buf} (hc : s.cs = some c) (hroom : c.len.toNat + 257 < 65536)
    (ho : s.opt = some o) (hlen : o.len.toNat ≤ 255) :
    ∃ b st e, andThen (buildRetransmit s) transmitStep = .next (transmitted { s with
          fidin := some s.params.fidCmdRetransmit, tx := some b, status := stOk } b st e)
      ∧ b.bytes = encodeFrame c.bytes s.params.fidCmdRetransmit o.bytes ∧ IsTransmitDraw s st e := by
  obtain ⟨b, hbuild, hb⟩ := buildRetransmit_result hc hroom ho hlen
  obtain ⟨st, e, hsend, hdraw⟩ := transmitStep_result (s := { s with
    fidin := some s.params.fidCmdRetransmit, tx := some b, status := stOk }) rfl
  exact ⟨b, st, e, by rw [hbuild, andThen_next, hsend], hb, hdraw⟩

theorem exec_sendRetx_of_ok {s : State} (hlen : OptLenOk s) (line : List Byte) :
    exec (.sendRetx line) s = andThen (buildRetransmit { s with
      opt := some (Buf.ofBytes (collectLine line)), rv := false, status := stOk }) transmitStep :=
  guardOptLen_of_ok hlen fun s => andThen (collectOp line s) fun s => andThen (buildRetransmit s) transmitStep

/-- Settles O35: each of the three builds the frame of its function id and transmits it. -/
theorem plainSenders : Obligations.PlainSenders := by
  intro s c i fid hc hroom hlen hi
  have hexec : exec i s = andThen (buildCommand fid s) transmitStep := by
    simp only [List.mem_cons, List.not_mem_nil, or_false, Prod.mk.injEq] at hi
    rcases hi with ⟨rfl, rfl⟩ | ⟨rfl, rfl⟩ | ⟨rfl, rfl⟩
    · exact guardOptLen_of_ok hlen fun s => andThen (buildCommand s.params.fidCmdPing s) transmitStep
    · exact guardOptLen_of_ok hlen fun s => andThen (buildCommand s.params.fidCmdSysinfo s) transmitStep
    · exact guardOptLen_of_ok hlen fun s => andThen (buildCommand s.params.fidCmdLastpkt s) transmitStep
  obtain ⟨b, o, st, e, hsend, ho, hb, hstatus, hlisted⟩ := sendCommand_result hc hroom fid
  have hblen : b.len.toNat = c.len.toNat + 1 := by
    rw [← b.length_bytes, hb, List.length_append, c.length_bytes, List.length_singleton]
  exact ⟨b, o, st, e, hexec.trans hsend, ho, hblen, hb, hstatus, hlisted⟩

/-- Settles O36: the frame is that of the line COLLECT left in OPT, and is then transmitted. -/
theorem retransmitSender : Obligations.RetransmitSender := by
  intro s c line hc hroom hlen
  have hopt : (Buf.ofBytes (collectLine line)).len.toNat ≤ 255 := by
    rw [toNat_len_ofBytes_collectLine]
    exact Nat.le_trans (length_collectLine_le line) (by decide)
  obtain ⟨b, st, e, hsend, hb, hstatus, hlisted⟩ := sendRetransmit_result (s := { s with
    opt := some (Buf.ofBytes (collectLine line)), rv := false, status := stOk }) hc hroom rfl hopt
  rw [bytes_ofBytes_collectLine] at hb
  exact ⟨b, _, st, e, (exec_sendRetx_of_ok hlen line).trans hsend, bytes_ofBytes_collectLine line,
    toNat_len_ofBytes_collectLine line, hb, hstatus, hlisted⟩

end Sys2Proof.Machine
end

section
/-! SUPPORT. The boundary of the block (60_exceptions.md): which requests are refused (R200, R220, R221), what a host write changes
(R209), which instructions reach the driver and the presentation layer (R34, R170, R206), and the forms of the notifications (R208). -/

namespace Sys2Proof.Machine

/-! ## Requests -/

theorem whenReady_of_notBooted {s : State} (h : s.boot = .notBooted) (f : State → Result) :
    whenReady s f = .refused .notBooted := by
  rw [whenReady, h]

theorem whenReady_of_failed {s : State} (h : s.boot = .failed) (f : State → Result) :
    whenReady s f = .refused .bootFailed := by
  rw [whenReady, h]

/-- A step with a request next runs it where the block is ready (R220). -/
theorem step_of_request {s : State} {ctx : Context} {op : BitVec 4} {line : List Byte} {rest : List Event}
    (h : s.inputs = .request ctx op line :: rest) :
    step s = whenReady { s with inputs := rest } (request ctx op line) :=
  step_of_inputs h

/-- Settles O16, by how far the boot sequence has come. -/
theorem requestsRefused : Obligations.RequestsRefused := by
  intro s ctx op line rest hi
  rw [step_of_request hi]
  refine ⟨?_, fun hb => whenReady_of_notBooted (s := { s with inputs := rest }) hb _,
    fun hb => whenReady_of_failed (s := { s with inputs := rest }) hb _⟩
  rintro hb rfl
  exact whenReady_of_ready (s := { s with inputs := rest }) hb _

/-! ## Host writes -/

theorem writeOpt_of_le {bs : List Byte} (h : bs.length ≤ 255) (s : State) :
    writeOpt bs s = .next { s with opt := some (Buf.ofBytes bs), rv := false } := by
  rw [writeOpt, if_neg (by omega), if_neg (Nat.not_lt.2 h)]

/-- Above 255 bytes the length alone is kept (R24, log 2). -/
theorem writeOpt_of_malformed {bs : List Byte} (h : 255 < bs.length) (hcount : bs.length < 2 ^ 16) (s : State) :
    writeOpt bs s = .next { s with opt := some { len := BitVec.ofNat 16 bs.length, mem := [] }, rv := false } := by
  rw [writeOpt, if_neg (Nat.not_le.2 hcount), if_pos h]

theorem writeOpt_of_uncountable {bs : List Byte} (h : 2 ^ 16 ≤ bs.length) (s : State) :
    writeOpt bs s = .refused (.writeTooLong .opt) := if_pos h

theorem writeRxbuf_of_fits {s : State} {bs : List Byte} (hcap : bs.length ≤ s.params.rxCap) (hcount : bs.length < 2 ^ 16) :
    writeRxbuf bs s = .next { s with rx := some (Buf.ofBytes bs) } :=
  if_neg (not_or.2 ⟨Nat.not_lt.2 hcap, Nat.not_le.2 hcount⟩)

theorem writeRxbuf_of_exceeds {s : State} {bs : List Byte} (h : s.params.rxCap < bs.length ∨ 2 ^ 16 ≤ bs.length) :
    writeRxbuf bs s = .refused (.writeTooLong .rxbuf) := if_pos h

/-- After boot, a step whose next event waits for the end of the boot sequence is that event's meaning (R220). -/
theorem step_of_whenReady {s : State} {e : Event} {rest : List Event} {f : State → Result} (hb : s.boot = .ready)
    (hi : s.inputs = e :: rest) (he : ∀ u, acceptEvent e u = whenReady u f) : step s = f { s with inputs := rest } := by
  rw [step_of_inputs hi, he]
  exact whenReady_of_ready (s := { s with inputs := rest }) hb f

/-- Settles O17, write by write: the step is the write of the state without its event. -/
theorem hostWrites : Obligations.HostWrites := by
  intro s e rest hb hi
  refine ⟨?_, ?_, ?_, ?_, ?_, ?_, ?_⟩
  · rintro b rfl
    exact step_of_whenReady hb hi fun _ => rfl
  · rintro bs rfl hlen
    have hcount : bs.length < 2 ^ 16 := by omega
    exact ⟨Buf.ofBytes bs, (step_of_whenReady hb hi fun _ => rfl).trans (writeOpt_of_le hlen _), Buf.toNat_len_ofBytes hcount,
      Buf.bytes_ofBytes hcount⟩
  · rintro bs rfl hlen hcount
    exact ⟨_, (step_of_whenReady hb hi fun _ => rfl).trans (writeOpt_of_malformed hlen hcount _), Nat.mod_eq_of_lt hcount⟩
  · rintro bs rfl hcap hcount
    exact ⟨Buf.ofBytes bs, (step_of_whenReady hb hi fun _ => rfl).trans (writeRxbuf_of_fits hcap hcount),
      Buf.toNat_len_ofBytes hcount, Buf.bytes_ofBytes hcount⟩
  · rintro bs rfl hlen
    exact (step_of_whenReady hb hi fun _ => rfl).trans (writeOpt_of_uncountable hlen _)
  · rintro bs rfl hlen
    exact (step_of_whenReady hb hi fun _ => rfl).trans (writeRxbuf_of_exceeds hlen)
  · rintro r rfl
    exact step_of_whenReady hb hi fun _ => rfl

/-! ## The instructions that reach no collaborator -/

/-- The driver's registers and the environment stand as they were (R43, R206). -/
def NoDriverCall (s t : State) : Prop := t.drvlog = s.drvlog ∧ t.drvcode = s.drvcode ∧ t.env = s.env

/-- The instruction is POLL or a sender: those that call the driver (R206). -/
def callsDriver : Instr → Bool
  | .poll | .sendPing | .sendReqsys | .sendReqpkt | .sendRetx _ => true
  | _ => false

theorem callsDriver_iff {i : Instr} :
    callsDriver i = true ↔
      i = .poll ∨ i = .sendPing ∨ i = .sendReqsys ∨ i = .sendReqpkt ∨ ∃ line, i = .sendRetx line := by
  cases i <;> simp [callsDriver]

theorem buildCommand_reaches_nothing {fid : Byte} {s t : State} (h : buildCommand fid s = .next t) :
    NoDriverCall s t ∧ t.note = s.note := by
  obtain ⟨c, -, rfl⟩ := buildCommand_eq_next h
  exact ⟨⟨rfl, rfl, rfl⟩, rfl⟩

theorem buildRetransmit_reaches_nothing {s t : State} (h : buildRetransmit s = .next t) :
    NoDriverCall s t ∧ t.note = s.note := by
  obtain ⟨o, -, ⟨-, rfl⟩ | ⟨-, c, fid, -, -, rfl⟩⟩ := encodeOp_eq_next h
  · exact ⟨⟨rfl, rfl, rfl⟩, rfl⟩
  · exact ⟨⟨rfl, rfl, rfl⟩, rfl⟩

theorem finish_reaches_nothing {code : BitVec 4} {s t : State} (h : finish code s = .next t) :
    NoDriverCall s t ∧ t.note = s.note := by
  cases finish_eq_next.1 h
  exact ⟨⟨rfl, rfl, rfl⟩, rfl⟩

theorem exec_pure_reaches_nothing {i : Instr} {s t : State} (hpure : isPure i = true) (h : exec i s = .next t) :
    NoDriverCall s t ∧ t.note = s.note := by
  obtain ⟨-, -, hcode, hnote, hlog, -, -, -, -, -, -, henv, -⟩ := pureOperationsFrame i s t hpure h
  exact ⟨⟨hlog, hcode, henv⟩, hnote⟩

/-- An instruction that neither calls the driver nor is a response row reaches no collaborator (R34, R206). -/
theorem exec_reaches_nothing {i : Instr} {s t : State} (hcalls : callsDriver i = false) (hkind : i.kind ≠ .inbound)
    (h : exec i s = .next t) : NoDriverCall s t ∧ t.note = s.note := by
  cases i with
  | encode | decode | dsysinfo | dlastpkt | drepeat | collect => exact exec_pure_reaches_nothing rfl h
  | reserved0 | reservedC | reservedD | reservedE | reservedF => exact finish_reaches_nothing h
  | irq =>
    rw [exec_irq] at h
    cases h
    exact ⟨⟨rfl, rfl, rfl⟩, rfl⟩
  | frameCmdPing | frameCmdSysinfo | frameCmdLastpkt => exact buildCommand_reaches_nothing h
  | frameCmdRetransmit => exact buildRetransmit_reaches_nothing h
  | poll | sendPing | sendReqsys | sendReqpkt | sendRetx => cases hcalls
  | frameRespPong | frameRespRepeated | frameRespSysinfo | frameRespLastpkt | frameUnrecognized => exact absurd rfl hkind

/-- Every response row is a dispatch branch (log 9). -/
theorem exec_inbound_dispatched {i : Instr} {s t : State} (hkind : i.kind = .inbound) (h : exec i s = .next t) :
    Dispatched s t := by
  cases i with
  | frameRespPong => exact execFrameRespPong_dispatched h
  | frameRespRepeated => exact execFrameRespRepeated_dispatched h
  | frameRespSysinfo => exact execFrameRespSysinfo_dispatched h
  | frameRespLastpkt => exact execFrameRespLastpkt_dispatched h
  | frameUnrecognized fid => exact execFrameUnrecognized_dispatched h
  | _ => cases hkind

/-- A dispatch branch calls no driver and notifies once (R44, R206). -/
theorem Dispatched.notifies_once {s t : State} (h : Dispatched s t) : NoDriverCall s t ∧ ∃ n, t.note = s.note ++ [n] := by
  obtain ⟨telemetry, packet, rv, status, n, rfl, -, -⟩ := h
  exact ⟨⟨rfl, rfl, rfl⟩, n, rfl⟩

/-! ## The senders' calls -/

/-- What a completed sender leaves: the receive side as it was, and one transmit call and one TxStatus with one status (R170, R176). -/
def Sent (s t : State) : Prop :=
  t.rxstate = s.rxstate ∧ t.im = s.im ∧ t.rx = s.rx ∧ t.fid = s.fid ∧ t.telemetry = s.telemetry ∧ t.packet = s.packet
    ∧ ∃ bytes n st, t.drvlog = s.drvlog ++ [.transmit bytes n st] ∧ t.note = s.note ++ [.txStatus st]

/-- Whatever frame a sender has built, the transmit step sends it with one call and one notification (R176). -/
theorem sent_of_transmitStep {s t : State} {fidin : Option Byte} {opt tx : Option Buf} {rv : Bool} {status : BitVec 4}
    (h : transmitStep { s with fidin, opt, rv, tx, status } = .next t) : Sent s t := by
  obtain ⟨b, -, rfl⟩ := transmitStep_eq_next h
  exact ⟨rfl, rfl, rfl, rfl, rfl, rfl, _, _, _, rfl, rfl⟩

theorem sendCommand_sent {fid : Byte} {s t : State} (h : andThen (buildCommand fid s) transmitStep = .next t) : Sent s t := by
  obtain ⟨u, hu, ht⟩ := andThen_eq_next.1 h
  obtain ⟨c, -, rfl⟩ := buildCommand_eq_next hu
  exact sent_of_transmitStep ht

theorem execSendRetx_sent {line : List Byte} {s t : State} (h : execSendRetx line s = .next t) : Sent s t := by
  obtain ⟨-, hsend⟩ := guardOptLen_eq_next.1 h
  obtain ⟨u, hu, hbuild⟩ := andThen_eq_next.1 hsend
  obtain ⟨v, hv, ht⟩ := andThen_eq_next.1 hbuild
  cases finish_eq_next.1 hu
  obtain ⟨o, -, ⟨-, rfl⟩ | ⟨-, c, fid, -, -, rfl⟩⟩ := encodeOp_eq_next hv
  · exact sent_of_transmitStep ht
  · exact sent_of_transmitStep ht

/-- Settles O58: by whether the instruction is a response row, and sender by sender. -/
theorem collaboratorCalls : Obligations.CollaboratorCalls := by
  intro i s t h
  refine ⟨fun hpoll hping hsys hpkt hretx => ?_, ?_⟩
  · have hcalls : callsDriver i = false := by
      simp [← Bool.not_eq_true, callsDriver_iff, hpoll, hping, hsys, hpkt, hretx]
    by_cases hkind : i.kind = .inbound
    · obtain ⟨⟨hlog, hcode, henv⟩, hnote⟩ := (exec_inbound_dispatched hkind h).notifies_once
      exact ⟨hlog, hcode, henv, absurd hkind, fun _ => hnote⟩
    · obtain ⟨⟨hlog, hcode, henv⟩, hnote⟩ := exec_reaches_nothing hcalls hkind h
      exact ⟨hlog, hcode, henv, fun _ => hnote, fun h' => absurd h' hkind⟩
  · rintro (rfl | rfl | rfl | ⟨line, rfl⟩)
    · exact sendCommand_sent (guardOptLen_eq_next.1 (show execSendPing s = _ from h)).2
    · exact sendCommand_sent (guardOptLen_eq_next.1 (show execSendReqsys s = _ from h)).2
    · exact sendCommand_sent (guardOptLen_eq_next.1 (show execSendReqpkt s = _ from h)).2
    · exact execSendRetx_sent h

/-! ## The forms of the notifications -/

theorem formOf_txStatus_drvOk (p : Config.Params) : formOf p (.txStatus p.drvOk) = .statusLine .transmitted := if_pos rfl

theorem formOf_txStatus_of_ne {p : Config.Params} {code : DrvStatus} (h : code ≠ p.drvOk) :
    formOf p (.txStatus code) = .error .transport code := if_neg h

/-- Settles O59, notification by notification: `TxStatus` alone asks which status it carries. -/
theorem presentationForms : Obligations.PresentationForms := fun p =>
  ⟨rfl, fun _ => rfl, fun _ _ => rfl, fun _ => rfl, fun _ => rfl, fun _ _ => rfl, formOf_txStatus_drvOk p,
    fun _ => formOf_txStatus_of_ne⟩

end Sys2Proof.Machine
end

section
/-! SUPPORT. Reset, boot and the ends of a run (70_reset_and_hazards.md): a restart (R215), which configurations the boot sequence
refuses and what it leaves (R220, R221, with R22, R6, R78 and R82), and a run with no event left (R222). -/

namespace Sys2Proof.Machine

/-! ## The ends of a run -/

/-- Settles O6: with no event left a step waits. -/
theorem blockWaits : Obligations.BlockWaits := by
  intro s hcomplete
  rw [step, show s.inputs = [] from hcomplete]

theorem Inv.idle_or_pending {s : State} (hi : Inv s) : s.rxstate = .idle ∨ s.pending = true := by
  cases h : s.rxstate with
  | idle => exact .inl rfl
  | framePending => exact .inr (decide_eq_true h)
  | processing => exact absurd h hi.settled

/-- Settles O7: the step keeps the invariant, under which RXSTATE is Idle or FramePending (R41 I5). -/
theorem completeRunsSettled : Obligations.CompleteRunsSettled := fun s t hi hstep hcomplete =>
  (stepKeepsInvariant s t hi hstep).idle_or_pending.imp_left (And.intro hcomplete)

/-! ## Restart -/

theorem step_of_restart {s : State} {p : Config.Params} {rest : List Event} (h : s.inputs = .restart p :: rest) :
    step s = .next (State.resetWith p rest s.env) := step_of_inputs h

/-- Settles O1: the next state is the reset state under the parameters of the new process. -/
theorem restartForgetsEverything : Obligations.RestartForgetsEverything := by
  intro s p rest h
  refine ⟨State.resetWith p rest s.env, step_of_restart h, ?_⟩
  simp [State.resetWith]

/-! ## Legal configurations -/

/-- R22: the callsign is not empty, fits its register and is printable. -/
theorem callsignLegal_iff {p : Config.Params} :
    callsignLegal p = true ↔
      p.callsign ≠ [] ∧ p.callsign.length ≤ p.lMax ∧ ∀ b ∈ p.callsign, 0x20 ≤ b.toNat ∧ b.toNat ≤ 0x7E := by
  simp [callsignLegal, printable, Nat.one_le_iff_ne_zero, and_assoc]

theorem callsignLegal_eq_false_iff {p : Config.Params} :
    callsignLegal p = false ↔
      p.callsign = [] ∨ p.lMax < p.callsign.length ∨ ∃ b ∈ p.callsign, b.toNat < 0x20 ∨ 0x7E < b.toNat := by
  simp only [← Bool.not_eq_true, callsignLegal_iff, ne_eq, not_and_or, not_forall, not_not, Nat.not_le, exists_prop]

theorem capacitiesLegal_iff {p : Config.Params} :
    capacitiesLegal p = true ↔ p.callsign.length + 1 ≤ p.rxCap ∧ p.callsign.length + 257 < 65536 := by
  simp [capacitiesLegal]

theorem capacitiesLegal_eq_false_iff {p : Config.Params} :
    capacitiesLegal p = false ↔ p.rxCap < p.callsign.length + 1 ∨ 65536 ≤ p.callsign.length + 257 := by
  rw [← Bool.not_eq_true, capacitiesLegal_iff]
  omega

theorem natCast_two_pow_sub_one_lt (n : Nat) : ((2 ^ n - 1 : Nat) : Int) < (2 : Int) ^ n := by
  exact_mod_cast Nat.sub_lt (Nat.two_pow_pos n) Nat.one_pos

/-- A field fits where the product of each of its raw values fits the 32-bit register: `fieldFits` asks the ends of the range only
(R82). -/
theorem fieldFits_iff {f : Config.Field} :
    fieldFits f = true ↔ ∀ raw, InRawRange f raw → -(2 : Int) ^ 31 ≤ raw * f.num ∧ raw * f.num < (2 : Int) ^ 31 := by
  refine ⟨fun hf raw hr => mul_num_mem_range hf hr, fun h => ?_⟩
  unfold InRawRange at h
  unfold fieldFits
  split
  · next hsigned =>
    simp only [hsigned, if_true] at h
    have hpos : (0 : Int) < 2 ^ (8 * f.width - 1) := by positivity
    obtain ⟨hlow, -⟩ := h (-2 ^ (8 * f.width - 1)) ⟨le_rfl, by linarith⟩
    obtain ⟨-, hhigh⟩ := h (2 ^ (8 * f.width - 1) - 1 : Nat) ⟨by omega, natCast_two_pow_sub_one_lt _⟩
    simp only [Bool.and_eq_true, decide_eq_true_eq]
    refine ⟨?_, by exact_mod_cast hhigh⟩
    zify
    linarith
  · next hunsigned =>
    simp only [hunsigned] at h
    obtain ⟨-, hhigh⟩ := h (2 ^ (8 * f.width) - 1 : Nat) ⟨Int.natCast_nonneg _, natCast_two_pow_sub_one_lt _⟩
    exact decide_eq_true (by exact_mod_cast hhigh)

theorem fieldLegal_iff {f : Config.Field} :
    fieldLegal f = true ↔ 1 ≤ f.width ∧ f.width ≤ 4 ∧ 0 < f.num ∧ 0 < f.den
      ∧ ∀ raw, InRawRange f raw → -(2 : Int) ^ 31 ≤ raw * f.num ∧ raw * f.num < (2 : Int) ^ 31 := by
  simp only [fieldLegal, Bool.and_eq_true, decide_eq_true_eq, fieldFits_iff, and_assoc]

theorem SysInfo.toList_eq_ofFn {α : Type} (r : SysInfo α) : r.toList = List.ofFn r.get := rfl

theorem SysInfo.all_toList_iff {α : Type} {r : SysInfo α} {P : α → Bool} :
    r.toList.all P = true ↔ ∀ i, P (r.get i) = true := by
  rw [SysInfo.toList_eq_ofFn, List.all_eq_true, List.forall_mem_ofFn_iff]

/-- R82, field by field: fields 9 and 10 are the counter and the bitfield, fields 6 to 8 the temperatures (log 3). -/
theorem layoutLegal_iff {l : Config.Layout} :
    layoutLegal l = true ↔
      (∀ i, 1 ≤ (l.get i).width ∧ (l.get i).width ≤ 4 ∧ 0 < (l.get i).num ∧ 0 < (l.get i).den
        ∧ ∀ raw, InRawRange (l.get i) raw → -(2 : Int) ^ 31 ≤ raw * (l.get i).num ∧ raw * (l.get i).num < (2 : Int) ^ 31)
      ∧ (∀ i : Fin 11, i = 9 ∨ i = 10 → (l.get i).num = 1 ∧ (l.get i).den = 1)
      ∧ (∀ i : Fin 11, i = 6 ∨ i = 7 ∨ i = 8 → (l.get i).signed = true)
      ∧ (∀ i : Fin 11, i = 9 ∨ i = 10 → (l.get i).signed = false)
      ∧ sysinfoLen l ≤ 255 := by
  simp only [layoutLegal, Bool.and_eq_true, decide_eq_true_eq, Bool.not_eq_true', SysInfo.all_toList_iff, fieldLegal_iff,
    forall_eq_or_imp, forall_eq, and_assoc]
  rfl

/-! ## The boot sequence -/

theorem step_of_boot {s : State} {radioOk : Bool} {rest : List Event} (h : s.inputs = .boot radioOk :: rest) :
    step s = bootSequence radioOk { s with inputs := rest } := step_of_inputs h

/-- The boot sequence is run once (R220). -/
theorem bootSequence_of_ready {s : State} (hb : s.boot = .ready) (radioOk : Bool) :
    bootSequence radioOk s = .refused .alreadyBooted := by
  rw [bootSequence, hb]

theorem bootSequence_of_failed {s : State} (hb : s.boot = .failed) (radioOk : Bool) :
    bootSequence radioOk s = .refused .bootFailed := by
  rw [bootSequence, hb]

section
variable {s : State} (hb : s.boot = .notBooted)
include hb

theorem bootSequence_of_callsignIllegal (radioOk : Bool) (hcs : callsignLegal s.params = false) :
    bootSequence radioOk s = .refused .callsignIllegal := by
  simp [bootSequence, hb, hcs]

theorem bootSequence_of_capacitiesIllegal (radioOk : Bool) (hcs : callsignLegal s.params = true)
    (hcap : capacitiesLegal s.params = false) : bootSequence radioOk s = .refused .capacitiesIllegal := by
  simp [bootSequence, hb, hcs, hcap]

theorem bootSequence_of_fidsIllegal (radioOk : Bool) (hcs : callsignLegal s.params = true)
    (hcap : capacitiesLegal s.params = true) (hfid : fidsLegal s.params = false) :
    bootSequence radioOk s = .refused .functionIdsIllegal := by
  simp [bootSequence, hb, hcs, hcap, hfid]

theorem bootSequence_of_layoutIllegal (radioOk : Bool) (hcs : callsignLegal s.params = true)
    (hcap : capacitiesLegal s.params = true) (hfid : fidsLegal s.params = true)
    (hlayout : layoutLegal s.params.layout = false) : bootSequence radioOk s = .refused .layoutIllegal := by
  simp [bootSequence, hb, hcs, hcap, hfid, hlayout]

variable (hcs : callsignLegal s.params = true) (hcap : capacitiesLegal s.params = true) (hfid : fidsLegal s.params = true)
  (hlayout : layoutLegal s.params.layout = true)
include hcs hcap hfid hlayout

/-- B1 to B5 under a legal configuration: two driver calls, the status of the second drawn and discarded (R220). -/
theorem bootSequence_of_radioOk :
    ∃ st e, bootSequence true s = .next { s with
      cs := some (Buf.ofBytes s.params.callsign), boot := .ready, rxstate := .idle, im := false, env := e,
      drvlog := s.drvlog ++ [.registerInterruptCallback, .startReceive st] } := by
  refine ⟨(drawStart s).1, (drawStart s).2.env, ?_⟩
  simp [bootSequence, hb, hcs, hcap, hfid, hlayout, pollRearm, logCall, drawStart]

/-- A failed B2 comes after B1 has written CS (R221, log 7). -/
theorem bootSequence_of_radioFailed :
    bootSequence false s = .next { s with cs := some (Buf.ofBytes s.params.callsign), boot := .failed } := by
  simp [bootSequence, hb, hcs, hcap, hfid, hlayout]

end

/-- Settles O3 (the name `bootSequence` is the model's): on a machine not yet booted, the checks of B1 in their order and the two
outcomes of B2; then R82's conditions on the layout, and the two refusals of a later boot. -/
theorem bootSequence_refusals_and_effect : Obligations.BootSequence := by
  intro s radioOk rest hin
  rw [step_of_boot hin]
  refine ⟨fun hb => ?_, layoutLegal_iff, fun hb => bootSequence_of_ready (s := { s with inputs := rest }) hb radioOk,
    fun hb => bootSequence_of_failed (s := { s with inputs := rest }) hb radioOk⟩
  replace hb : ({ s with inputs := rest } : State).boot = .notBooted := hb
  refine ⟨fun hbad => ?_, fun hcs hbad => ?_, fun hcs hcap hbad => ?_, fun hcs hcap hfid hbad => ?_,
    fun hne hmax hprint hrx hroom hnodup hlayout => ?_⟩
  · exact bootSequence_of_callsignIllegal hb radioOk (callsignLegal_eq_false_iff.2 hbad)
  · exact bootSequence_of_capacitiesIllegal hb radioOk hcs (capacitiesLegal_eq_false_iff.2 hbad)
  · exact bootSequence_of_fidsIllegal hb radioOk hcs hcap (decide_eq_false hbad)
  · exact bootSequence_of_layoutIllegal hb radioOk hcs hcap hfid hbad
  · have hcs := callsignLegal_iff.2 ⟨hne, hmax, hprint⟩
    have hcap := capacitiesLegal_iff.2 ⟨hrx, hroom⟩
    have hfid : fidsLegal s.params = true := decide_eq_true hnodup
    have hcount : s.params.callsign.length < 2 ^ 16 := by omega
    refine ⟨Buf.ofBytes s.params.callsign, Buf.toNat_len_ofBytes hcount, Buf.bytes_ofBytes hcount, ?_, ?_⟩
    · rintro rfl
      exact bootSequence_of_radioOk hb hcs hcap hfid hlayout
    · rintro rfl
      exact bootSequence_of_radioFailed hb hcs hcap hfid hlayout

end Sys2Proof.Machine
end
